-- ==== Sys2Proof/Word.lean ====
section
/-! DEFINITION. The widths of the machine's values (00_scope.md R7, R10). -/

namespace Sys2Proof

/-- One byte of memory, one general register, an immediate NN. -/
abbrev Byte := BitVec 8

/-- A 16-bit value: an instruction word, PC, I, a stack entry. -/
abbrev Word := BitVec 16

/-- A 12-bit address operand NNN (30_encoding.md R72). -/
abbrev Addr12 := BitVec 12

/-- The index of a general register, the fields X and Y (10_state.md R20). -/
abbrev Reg := Fin 16

/-- The row count N of DXYN, 0..15 (30_encoding.md R72). -/
abbrev RowCount := Fin 16

end Sys2Proof
end

