-- ==== Sys2Proof/Syntax.lean ====
section
/-! DEFINITION. The instruction set, one constructor per row of spec/opcode_table.json (00_scope.md R2,
30_encoding.md R73). Each operand has the width of its field, so no term names an operand that does not fit. -/

namespace Sys2Proof

/-- The six instructions. -/
inductive Instr where
  /-- `00E0` CLS: clear the framebuffer (43_display.md R130). -/
  | cls
  /-- `1NNN` JP nnn: jump (41_control.md R110). -/
  | jp (nnn : Addr12)
  /-- `6XNN` LD Vx, nn (42_registers.md R120). -/
  | ldV (x : Reg) (nn : Byte)
  /-- `7XNN` ADD Vx, nn (42_registers.md R121). -/
  | addV (x : Reg) (nn : Byte)
  /-- `ANNN` LD I, nnn (42_registers.md R122). -/
  | ldI (nnn : Addr12)
  /-- `DXYN` DRW Vx, Vy, n (43_display.md R131). -/
  | drw (x y : Reg) (n : RowCount)
  deriving DecidableEq, Repr

end Sys2Proof
end

