-- ==== Sys2Proof/WellFormed.lean ====
section
/-! DEFINITION. The assembler's source line and the check it makes: "An assembler refuses an operand that does
not fit its field" (30_encoding.md R79, R80). An `Instr` has operands of the right widths by its type; the numbers
a source line writes are unbounded, and this check is what stands between the two. -/

namespace Sys2Proof

/-- One line of assembler source (30_encoding.md R79), or a data directive (R80). Operands are the numbers as
written, of any size. -/
inductive AsmLine where
  | cls
  | jp (nnn : Nat)
  | ldV (x nn : Nat)
  | addV (x nn : Nat)
  | ldI (nnn : Nat)
  | drw (x y n : Nat)
  /-- `DW 0xHHHH`: one 16-bit word, high byte first. -/
  | dw (word : Nat)
  /-- `DB 0xHH`: one byte. -/
  | db (byte : Nat)
  deriving DecidableEq, Repr

/-- Every operand fits its field: a register index is at most 0xF, nn at most 0xFF, nnn at most 0xFFF and n at
most 0xF (30_encoding.md R79). A directive's datum fits the word or the byte it emits (R80). -/
def AsmLine.wellFormed : AsmLine → Bool
  | .cls => true
  | .jp nnn => nnn ≤ 0xFFF
  | .ldV x nn => x ≤ 0xF && nn ≤ 0xFF
  | .addV x nn => x ≤ 0xF && nn ≤ 0xFF
  | .ldI nnn => nnn ≤ 0xFFF
  | .drw x y n => x ≤ 0xF && y ≤ 0xF && n ≤ 0xF
  | .dw word => word ≤ 0xFFFF
  | .db byte => byte ≤ 0xFF

/-- The source line of an instruction. -/
def Instr.asmLine : Instr → AsmLine
  | .cls => .cls
  | .jp nnn => .jp nnn.toNat
  | .ldV x nn => .ldV x.val nn.toNat
  | .addV x nn => .addV x.val nn.toNat
  | .ldI nnn => .ldI nnn.toNat
  | .drw x y n => .drw x.val y.val n.val

/-- An instruction is well formed when its source line is. Every `Instr` is (the operand widths are in its type),
and `Sys2Proof.Laws.Decode` proves it. -/
def Instr.wellFormed (i : Instr) : Bool := i.asmLine.wellFormed

end Sys2Proof
end

