-- ==== Sys2Proof/Decode.lean ====
section
/-! DEFINITION. Instruction words: byte order, the six fields, the total decoder, the encoder written from the same
table, and the assembler (30_encoding.md; byte order 20_memory.md R62). -/

namespace Sys2Proof

/-! ### Byte order -/

/-- `{hi, lo}`: the 16-bit word of two bytes, `hi * 256 + lo` (00_scope.md R10). -/
def joinBytes (hi lo : Byte) : Word := hi ++ lo

/-- Bits 15..8 of a word, the byte at the lower address (20_memory.md R62). -/
def highByte (w : Word) : Byte := w.extractLsb' 8 8

/-- Bits 7..0 of a word, the byte at the higher address. -/
def lowByte (w : Word) : Byte := w.extractLsb' 0 8

/-! ### The fields of a word (30_encoding.md R71) -/

/-- F = w[15:12], the opcode family. -/
def fieldF (w : Word) : BitVec 4 := w.extractLsb' 12 4

/-- X = w[11:8], a register index. -/
def fieldX (w : Word) : Reg := (w.extractLsb' 8 4).toFin

/-- Y = w[7:4], a register index. -/
def fieldY (w : Word) : Reg := (w.extractLsb' 4 4).toFin

/-- N = w[3:0], a row count. -/
def fieldN (w : Word) : RowCount := (w.extractLsb' 0 4).toFin

/-- NN = w[7:0], an 8-bit immediate. -/
def fieldNN (w : Word) : Byte := w.extractLsb' 0 8

/-- NNN = w[11:0], a 12-bit address. -/
def fieldNNN (w : Word) : Addr12 := w.extractLsb' 0 12

/-! ### The decoder -/

/-- Why bytes are no instruction. -/
inductive Reject where
  /-- `UNSUPPORTED(w)` of 30_encoding.md R77: the word matches no implemented pattern. -/
  | unsupported (w : Word)
  /-- Fewer than the two bytes every instruction has (30_encoding.md R70, R78). -/
  | truncated
  deriving DecidableEq, Repr

/-- The decoder of 30_encoding.md R77, total over the 65,536 words: family 0x0 holds the one word 0x00E0, and a
word of another family without an instruction is rejected with none of its fields examined (R74, R75). -/
def decode (w : Word) : Except Reject Instr :=
  if w = 0x00E0#16 then .ok .cls
  else match (fieldF w).toNat with
    | 0x1 => .ok (.jp (fieldNNN w))
    | 0x6 => .ok (.ldV (fieldX w) (fieldNN w))
    | 0x7 => .ok (.addV (fieldX w) (fieldNN w))
    | 0xA => .ok (.ldI (fieldNNN w))
    | 0xD => .ok (.drw (fieldX w) (fieldY w) (fieldN w))
    | _ => .error (.unsupported w)

/-- Decoding bytes as memory holds them: a decoder always consumes exactly two, the high byte first
(30_encoding.md R70, R78), and leaves the rest. -/
def decodeBytes : List Byte → Except Reject (Instr × List Byte)
  | hi :: lo :: rest =>
    match decode (joinBytes hi lo) with
    | .ok i => .ok (i, rest)
    | .error r => .error r
  | _ => .error .truncated

/-! ### The encoder (30_encoding.md R79) -/

/-- The word of an instruction, in the form R79 gives: the family's nibble or-ed with the shifted operands. -/
def encode : Instr → Word
  | .cls => 0x00E0#16
  | .jp nnn => 0x1000#16 ||| nnn.setWidth 16
  | .ldV x nn => 0x6000#16 ||| (BitVec.ofNat 16 x.val <<< 8) ||| nn.setWidth 16
  | .addV x nn => 0x7000#16 ||| (BitVec.ofNat 16 x.val <<< 8) ||| nn.setWidth 16
  | .ldI nnn => 0xA000#16 ||| nnn.setWidth 16
  | .drw x y n =>
    0xD000#16 ||| (BitVec.ofNat 16 x.val <<< 8) ||| (BitVec.ofNat 16 y.val <<< 4) ||| BitVec.ofNat 16 n.val

/-- A word as memory holds it: high byte first (20_memory.md R62). -/
def wordBytes (w : Word) : List Byte := [highByte w, lowByte w]

/-- The two bytes of an instruction. -/
def encodeBytes (i : Instr) : List Byte := wordBytes (encode i)

/-! ### The table's words, as the host numbers them -/

/-- The word the host means by `nbits` and `w`: the bits of `w` above `nbits` are 0, and so is every bit above an
instruction's sixteen. Bit 0 is the least significant bit of the one word an instruction has. -/
def tableWord (nbits w : Nat) : Word := BitVec.ofNat 16 (w % 2 ^ nbits)

/-- The instruction the decoder reads from a row's word: the word is laid out in memory's byte order and the bytes
are decoded. -/
def decodeTableWord (nbits w : Nat) : Option Instr :=
  match decodeBytes (wordBytes (tableWord nbits w)) with
  | .ok (i, _) => some i
  | .error _ => none

/-! ### The assembler (30_encoding.md R79, R80) -/

/-- The instruction of a source line whose operands fit; none for a directive, and none for a line the assembler
refuses. -/
def AsmLine.instr? (l : AsmLine) : Option Instr :=
  if l.wellFormed then
    match l with
    | .cls => some .cls
    | .jp nnn => some (.jp (BitVec.ofNat 12 nnn))
    | .ldV x nn => some (.ldV (Fin.ofNat 16 x) (BitVec.ofNat 8 nn))
    | .addV x nn => some (.addV (Fin.ofNat 16 x) (BitVec.ofNat 8 nn))
    | .ldI nnn => some (.ldI (BitVec.ofNat 12 nnn))
    | .drw x y n => some (.drw (Fin.ofNat 16 x) (Fin.ofNat 16 y) (Fin.ofNat 16 n))
    | .dw _ => none
    | .db _ => none
  else none

/-- The bytes a source line emits, none when the assembler refuses it: an instruction's two bytes, a `DW` word
high byte first, a `DB` byte. -/
def AsmLine.assemble (l : AsmLine) : Option (List Byte) :=
  if l.wellFormed then
    match l with
    | .dw word => some (wordBytes (BitVec.ofNat 16 word))
    | .db byte => some [BitVec.ofNat 8 byte]
    | _ => l.instr?.map encodeBytes
  else none

/-- A whole source: the bytes of its lines in order, none when one line is refused. -/
def assembleAll : List AsmLine → Option (List Byte)
  | [] => some []
  | l :: ls =>
    match l.assemble, assembleAll ls with
    | some bs, some rest => some (bs ++ rest)
    | _, _ => none

/-- The hexadecimal digit of a number below 16. -/
def hexDigit (d : Nat) : Char :=
  "0123456789ABCDEF".toList.getD d '?'

/-- The last `digits` hexadecimal digits of a number, most significant first. -/
def hexDigits : (digits n : Nat) → List Char
  | 0, _ => []
  | k + 1, n => hexDigits k (n / 16) ++ [hexDigit (n % 16)]

/-- "Numbers are written in hex with a `0x` prefix" (30_encoding.md R79), with the digits of the field's width. -/
def hexNumber (digits n : Nat) : List Char := "0x".toList ++ hexDigits digits n

/-- "Register names are `V0`..`V9` and `VA`..`VF`" (30_encoding.md R79). -/
def registerName (x : Nat) : List Char := 'V' :: hexDigits 1 x

/-- The text of a source line, by the tables of 30_encoding.md R79 and R80 (log entry 21). -/
def AsmLine.text : AsmLine → List Char
  | .cls => "CLS".toList
  | .jp nnn => "JP ".toList ++ hexNumber 3 nnn
  | .ldV x nn => "LD ".toList ++ registerName x ++ ", ".toList ++ hexNumber 2 nn
  | .addV x nn => "ADD ".toList ++ registerName x ++ ", ".toList ++ hexNumber 2 nn
  | .ldI nnn => "LD I, ".toList ++ hexNumber 3 nnn
  | .drw x y n =>
    "DRW ".toList ++ registerName x ++ ", ".toList ++ registerName y ++ ", ".toList ++ hexNumber 1 n
  | .dw word => "DW ".toList ++ hexNumber 4 word
  | .db byte => "DB ".toList ++ hexNumber 2 byte

end Sys2Proof
end

