-- ==== Sys2Proof/Config.lean ====
section
/-! DEFINITION. What an implementation fixes: the parameters of 00_scope.md R8 that the core or the host's
reaction reads. They are plain data, carried by State and written by no step (log entry 4). -/

namespace Sys2Proof

/-- The parameters of 00_scope.md R8.
TICK_RATE and the load offset are no fields: the first is host state that no rule of the core reads, and the
second is an operand of each load. PC_WIDTH is fixed at 16 (decision D1, log entry 10). -/
structure Config where
  /-- FONT[5..79]: the 75 font bytes the source does not give (20_memory.md R54). FONT[0..4] are fixed by the
  source and stand in Machine/Font.lean, so no Config can contradict them. -/
  glyphs1toF : Vector Byte 75
  /-- STRICT_UNWRITTEN: a read of a V register or of I that no instruction has written faults. -/
  strictUnwritten : Bool
  /-- DEBUG_DUMP: whether the host dumps memory on a fault or terminates. No rule of the core reads it. -/
  debugDump : Bool
  deriving DecidableEq, Repr

end Sys2Proof
end

