-- ==== Sys2Proof/Machine/Font.lean ====
section
/-! DEFINITION. The font table (20_memory.md R53, R54) and the default parameters (00_scope.md R8). -/

namespace Sys2Proof.Machine

/-- FONT[0..4], glyph 0: the five bytes the source fixes (20_memory.md R54, 90_conflicts.md C2). -/
def glyph0 : Vector Byte 5 := #v[0xF0, 0x90, 0x90, 0x90, 0xF0]

/-- FONT[5..79] of the conventional CHIP-8 font, the default of 20_memory.md R54.
PRESUMED: the spec takes these bytes from general knowledge, not from the source (decision D9, log entry 3). -/
def conventionalGlyphs : Vector Byte 75 := #v[
  0x20, 0x60, 0x20, 0x20, 0x70,
  0xF0, 0x10, 0xF0, 0x80, 0xF0,
  0xF0, 0x10, 0xF0, 0x10, 0xF0,
  0x90, 0x90, 0xF0, 0x10, 0x10,
  0xF0, 0x80, 0xF0, 0x10, 0xF0,
  0xF0, 0x80, 0xF0, 0x90, 0xF0,
  0xF0, 0x10, 0x20, 0x40, 0x40,
  0xF0, 0x90, 0xF0, 0x90, 0xF0,
  0xF0, 0x90, 0xF0, 0x10, 0xF0,
  0xF0, 0x90, 0xF0, 0x90, 0x90,
  0xE0, 0x90, 0xE0, 0x90, 0xE0,
  0xF0, 0x80, 0x80, 0x80, 0xF0,
  0xE0, 0x90, 0x90, 0x90, 0xE0,
  0xF0, 0x80, 0xF0, 0x80, 0xF0,
  0xF0, 0x80, 0xF0, 0x80, 0x80]

/-- FONT[k] for k in 0..79 (20_memory.md R54), and 0 past the table. -/
def fontByte (c : Config) (k : Nat) : Byte :=
  if h : k < 5 then glyph0[k]
  else if h' : k - 5 < 75 then c.glyphs1toF[k - 5]
  else 0

/-- MEM[a] after reset: the font at 0x050..0x09F, 0x00 everywhere else (20_memory.md R51, R53).
It is also what an address that memory's list does not name reads as (log entry 19). -/
def resetByte (c : Config) (a : Nat) : Byte :=
  if 0x050 ≤ a ∧ a ≤ 0x09F then fontByte c (a - 0x050) else 0

/-- The default parameters: R54's default font, STRICT_UNWRITTEN = false (00_scope.md R8), and DEBUG_DUMP = true.
DESIGN CHOICE: R8 gives DEBUG_DUMP no default (log entry 18). -/
def defaultConfig : Config where
  glyphs1toF := conventionalGlyphs
  strictUnwritten := false
  debugDump := true

end Sys2Proof.Machine
end

