-- ==== Sys2Proof/Machine/State.lean ====
section
/-! DEFINITION. The state of the machine as plain data, the reasons a step or a port can stop, and the state after
reset (10_state.md). -/

namespace Sys2Proof.Machine

/-- The faults of the core, 60_exceptions.md R150. A fault is never an outcome `.fault` of a step: the spec says what
state it leaves (R155), so the step that raises one answers that NEXT state, with the fault in its FAULT record
(log entry 1). -/
inductive Fault where
  /-- Code 1. Raised by the dispatch of a word that is none of the six instructions (R151). Safe: the spec's own
  stop. -/
  | unsupportedOpcode
  /-- Code 2. Raised by the fetch when PC > 0xFFE (R152, decision D3). Safe: the model stops where the hardware
  might go on. -/
  | fetchOutOfRange
  /-- Code 3. Raised by DXYN when N >= 1 and I + N - 1 > 0xFFF (R153, decision D4). Safe: the model stops where the
  hardware might go on. -/
  | spriteOutOfRange
  /-- Code 4. Raised by 7XNN and DXYN in the strict model only, when they read a register that no instruction has
  written (R165, decision D2). Safe: the strict model errs only toward unprovable. -/
  | unwrittenRead
  deriving DecidableEq, Repr

/-- Why a port or an arm gives no next state. No tick is refused. -/
inductive Refusal where
  /-- Answered by an arm of `exec` whose instruction has no meaning yet; this model has no such arm. Safe. -/
  | notModelled (mnemonic : String)
  /-- Answered by the load port when offset + length > 4096 (20_memory.md R58, decision D8). Safe: the spec gives
  such a load no meaning. -/
  | loadOutOfRange
  /-- Answered by the load port once STARTED = 1 (20_memory.md R59, decision D8). Safe: the spec gives such a load
  no meaning. -/
  | loadClosed
  /-- Answered by the peek port outside 0x000..0xFFF (20_memory.md R68). Safe: the spec gives such a peek no
  meaning. -/
  | peekOutOfRange
  /-- Answered to a host write of V0-VF, I, PC, SP, STACK, DT or ST (10_state.md R36, decision D23). Unsafe if a
  real host did it, as D23 says: a claim about runs would not cover it. -/
  | hostRegisterWrite
  /-- Answered to a host write of DISP (10_state.md R36, decision D23). Unsafe in the same way. -/
  | hostFramebufferWrite
  /-- Answered to a tick issued inside a tick (10_state.md R36, 70_reset_and_hazards.md R186, decision D23). Unsafe
  in the same way. -/
  | tickInsideTick
  deriving DecidableEq, Repr

/-- The FAULT record's triple (10_state.md R33): the fault, whose number is `Fault.code`, the instruction word, none
when the fetch failed, and the address of the faulting instruction. -/
structure FaultRecord where
  fault : Fault
  word : Option Word
  pc : Word
  deriving DecidableEq, Repr

/-- WRITTEN, the strict model's hidden bits: one per V register and one for I (10_state.md R40). -/
structure Written where
  v : Vector Bool 16
  i : Bool
  deriving DecidableEq, Repr

/-- The framebuffer, 64 columns of 32 cells, indexed [x][y]; `true` is a lit pixel (10_state.md R30). -/
abbrev Display := Vector (Vector Bool 32) 64

/-- Memory: the bytes that differ from their value after reset, by rising address. An address with no entry reads
as `resetByte` (log entry 19). -/
abbrev Memory := List Host.Cell

/-- Every piece of state of 10_state.md and 20_memory.md, and the parameters of 00_scope.md R8. -/
structure State where
  /-- The parameters, written by nothing (log entry 4). -/
  config : Config
  /-- V0..VF (R20). -/
  v : Vector Byte 16
  /-- I (R23). -/
  i : Word
  /-- PC (R25). -/
  pc : Word
  /-- SP (R27). -/
  sp : Byte
  /-- STACK[0..15] (R28). -/
  stack : Vector Word 16
  /-- DT, the delay timer (R29). -/
  dt : Byte
  /-- ST, the sound timer (R29). -/
  st : Byte
  /-- DISP (R30). -/
  disp : Display
  /-- MEM (20_memory.md R50). -/
  mem : Memory
  /-- HALT (R32). -/
  halt : Bool
  /-- FAULT (R33). -/
  fault : Option FaultRecord
  /-- STARTED (R34). -/
  started : Bool
  /-- WRITTEN (R40); in the default model it keeps its reset value (log entry 5). -/
  written : Written
  deriving DecidableEq, Repr

/-- The state after reset for given parameters, the table of 10_state.md R39.
DESIGN CHOICE: the zeros of V, I, STACK, DT and ST are the spec's decision D2, the source says only "defaulted"
(log entry 2). -/
def State.resetOf (c : Config) : State where
  config := c
  v := Vector.replicate 16 0
  i := 0
  pc := 0x200
  sp := 0
  stack := Vector.replicate 16 0
  dt := 0
  st := 0
  disp := Vector.replicate 64 (Vector.replicate 32 false)
  mem := []
  halt := false
  fault := none
  started := false
  written := { v := Vector.replicate 16 false, i := false }

/-- The state after reset, with the default parameters. -/
def State.reset : State := State.resetOf defaultConfig

end Sys2Proof.Machine
end

