-- ==== Sys2Proof/Machine/Flags.lean ====
section
/-! DEFINITION. The one flag of the subset: VF as DXYN's collision flag (10_state.md R21, 43_display.md R134, R136,
R138), and the numbers of the faults (60_exceptions.md R150). -/

namespace Sys2Proof.Machine

/-- VF, the register that DXYN writes as a flag (10_state.md R21). -/
def flagRegister : Reg := 0xF

/-- The value DXYN leaves in VF: 0x01 when some cell went from on to off, 0x00 otherwise (43_display.md R138). -/
def collisionFlag (collided : Bool) : Byte := if collided then 0x01 else 0x00

/-- The numeric codes of 60_exceptions.md R150 (decision D7, log entry 9). -/
def Fault.code : Fault → Nat
  | .unsupportedOpcode => 1
  | .fetchOutOfRange => 2
  | .spriteOutOfRange => 3
  | .unwrittenRead => 4

end Sys2Proof.Machine
end

