-- ==== Sys2Proof/Machine/Operands.lean ====
section
/-! DEFINITION. Operand forms and their arithmetic: zero extension, the wrapping sum, the coordinates and the sprite
addresses of DXYN (00_scope.md R10, 30_encoding.md R72, 43_display.md R132, R133). All are unsigned. -/

namespace Sys2Proof.Machine

/-- `zext_16(NNN)` (30_encoding.md R72). -/
def zext16 (nnn : Addr12) : Word := nnn.setWidth 16

/-- `(a + b) mod 2^8`: the one arithmetic operation of the subset, with no carry, overflow or borrow output
(42_registers.md R121). -/
def addByte (a b : Byte) : Byte := a + b

/-- `x0 <- V[X] mod 64` (43_display.md R132). -/
def startColumn (vx : Byte) : Nat := vx.toNat % 64

/-- `y0 <- V[Y] mod 32` (43_display.md R132). -/
def startRow (vy : Byte) : Nat := vy.toNat % 32

/-- The address of sprite row n, `I + n`: exact, not masked and not wrapped (43_display.md R133, decision D22). -/
def spriteAddress (i : Word) (n : Nat) : Nat := i.toNat + n

/-- `N >= 1 and I + (N - 1) > 0xFFF` (43_display.md R133): a row of the sprite, clipped or not, lies past the end of
memory. -/
def spriteOutOfRange (i : Word) (n : RowCount) : Bool :=
  decide (1 ≤ n.val ∧ 0xFFF < spriteAddress i (n.val - 1))

/-- Bit 7 - k of a sprite byte: column k, most significant bit first (43_display.md R136). -/
def spriteColumn (b : Byte) (k : Nat) : Bool := b.getLsbD (7 - k)

end Sys2Proof.Machine
end

