-- ==== Sys2Proof/Machine/Ops.lean ====
section
/-! DEFINITION. The named operations over memory, registers and framebuffer, the fetch, and fault entry. Every
meaning and every port is built from these. -/

namespace Sys2Proof.Machine

/-! ### Memory (20_memory.md) -/

/-- MEM has the addresses 0x000..0xFFF (R50). -/
abbrev memSize : Nat := 4096

/-- The byte at an address: its entry, or the byte reset left there (R51). -/
def Memory.read (c : Config) : Memory → Nat → Byte
  | [], a => resetByte c a
  | (b, x) :: rest, a => if a = b then x else Memory.read c rest a

/-- A memory with one entry put in front, unless the byte is what the address reads as without one. -/
def Memory.cons (c : Config) (a : Nat) (x : Byte) (m : Memory) : Memory :=
  if x = resetByte c a then m else (a, x) :: m

/-- `MEM[a] <- x`, keeping the canonical form. -/
def Memory.write (c : Config) : Memory → Nat → Byte → Memory
  | [], a, x => Memory.cons c a x []
  | (b, y) :: rest, a, x =>
    if a < b then Memory.cons c a x ((b, y) :: rest)
    else if a = b then Memory.cons c a x rest
    else (b, y) :: Memory.write c rest a x

/-- The write cursor of a load: bytes in order, "advancing the write cursor by one per byte" (R56, R57). -/
def Memory.writeBytes (c : Config) : Memory → Nat → List Byte → Memory
  | m, _, [] => m
  | m, a, x :: xs => Memory.writeBytes c (Memory.write c m a x) (a + 1) xs

/-- The canonical form: addresses strictly rising and inside memory, no entry equal to what its address reads as
without one. -/
abbrev Memory.wf (c : Config) (m : Memory) : Prop :=
  m.Pairwise (fun p q => p.1 < q.1) ∧ ∀ p ∈ m, p.1 < memSize ∧ p.2 ≠ resetByte c p.1

/-- `MEM[a]`. The rules that read check a <= 0xFFF first (R61). -/
def State.readMem (s : State) (a : Nat) : Byte := Memory.read s.config s.mem a

/-- The bytes written at an offset; only the load port uses it (R52, R56). -/
def State.writeMem (s : State) (a : Nat) (bytes : List Byte) : State :=
  { s with mem := Memory.writeBytes s.config s.mem a bytes }

/-! ### General registers and I (10_state.md R20 to R24, R40) -/

/-- `V[x]`. -/
def State.readV (s : State) (x : Reg) : Byte := s.v[x]

/-- WRITTEN after an instruction writes V[x]. The bits exist in the strict model only (R40). -/
def State.markV (s : State) (x : Reg) : Written :=
  if s.config.strictUnwritten then { s.written with v := s.written.v.set x true } else s.written

/-- WRITTEN after an instruction writes I. -/
def State.markI (s : State) : Written :=
  if s.config.strictUnwritten then { s.written with i := true } else s.written

/-- `V[x] <- b`, by an instruction. No register is hard-wired (R20), VF included (R21). -/
def State.writeV (s : State) (x : Reg) (b : Byte) : State :=
  { s with v := s.v.set x b, written := s.markV x }

/-- `I <- w`, by an instruction. -/
def State.writeI (s : State) (w : Word) : State :=
  { s with i := w, written := s.markI }

/-- V[x] may be read: always in the default model, and in the strict model once an instruction has written it
(60_exceptions.md R165). -/
def State.readableV (s : State) (x : Reg) : Bool := !s.config.strictUnwritten || s.written.v[x]

/-- I may be read, likewise. -/
def State.readableI (s : State) : Bool := !s.config.strictUnwritten || s.written.i

/-! ### The program counter (10_state.md R25, 40_engine.md R92) -/

/-- `PC <- pc0 + 2`, unconditionally (40_engine.md R92), also from an odd PC (20_memory.md R64): from 0xFFD to 0xFFF. A
sentence of 60_exceptions.md R152, marked derived there, says that PC reaches 0xFFF only by `1FFF`; the model follows R92
(log entry 27, DESIGN CHOICE). -/
def State.advance (s : State) : State := { s with pc := s.pc + 2 }

/-- `PC <- target`. -/
def State.jump (s : State) (target : Word) : State := { s with pc := target }

/-! ### The framebuffer (10_state.md R30, R31) -/

/-- Every cell `false`. -/
def Display.blank : Display := Vector.replicate 64 (Vector.replicate 32 false)

/-- `DISP[x][y]`; a place outside the grid holds no pixel. -/
def Display.cell (d : Display) (x y : Nat) : Bool :=
  if h : x < 64 ∧ y < 32 then (d[x]'h.1)[y]'h.2 else false

/-- `DISP[x][y] <- not DISP[x][y]`; a place outside the grid changes nothing. -/
def Display.toggle (d : Display) (x y : Nat) : Display :=
  if h : x < 64 ∧ y < 32 then d.set x ((d[x]'h.1).set y (!(d[x]'h.1)[y]'h.2) h.2) h.1 else d

/-- The framebuffer replaced. -/
def State.setDisp (s : State) (d : Display) : State := { s with disp := d }

/-! ### Latches and fault entry (10_state.md R32 to R34, 40_engine.md R95, 60_exceptions.md R155) -/

/-- `STARTED <- 1`, what a tick of a core that is not halted does first (40_engine.md R90). -/
def State.start (s : State) : State := { s with started := true }

/-- Taking a fault, in the state whose PC is the address pc0 of the faulting instruction: STARTED <- 1, HALT <- 1,
FAULT <- the triple, and nothing else (60_exceptions.md R155). There is no vector and no saved-state area: control
goes nowhere, and there is no return (R156); only reset clears HALT (70_reset_and_hazards.md R180). -/
def State.raise (s : State) (f : Fault) (word : Option Word) : State :=
  { s with started := true, halt := true, fault := some { fault := f, word := word, pc := s.pc } }

/-! ### Fetch (40_engine.md R91) -/

/-- The word at PC, big-endian, none when PC > 0xFFE. -/
def State.fetch (s : State) : Option Word :=
  if 0xFFE < s.pc.toNat then none
  else some (joinBytes (s.readMem s.pc.toNat) (s.readMem (s.pc.toNat + 1)))

end Sys2Proof.Machine
end

