-- ==== Sys2Proof/Machine/Control.lean ====
section
/-! DEFINITION. Control transfer (41_control.md). A meaning runs in the state whose PC is pc0, the address of its
instruction, and makes the advance of 40_engine.md R92 itself (log entry 22). -/

namespace Sys2Proof.Machine

/-- `JP NNN` (R110): the target overwrites the advanced PC. -/
def execJp (nnn : Addr12) (s : State) : Host.Outcome State Fault Refusal :=
  .next (s.advance.jump (zext16 nnn))

end Sys2Proof.Machine
end

