-- ==== Sys2Proof/Machine/DisplayUnit.lean ====
section
/-! DEFINITION. The display unit (43_display.md): the clear, and the sprite-XOR draw with its collision detector. -/

namespace Sys2Proof.Machine

/-- `CLS` (R130): the one direct set of the framebuffer. VF is unchanged. -/
def execCls (s : State) : Host.Outcome State Fault Refusal :=
  .next (s.advance.setDisp Display.blank)

/-- What a draw has built so far: the framebuffer, and whether a cell went from on to off. -/
structure Drawing where
  disp : Display
  collided : Bool
  deriving DecidableEq, Repr

/-- Toggling one cell: a collision when the cell becomes false (R136). -/
def Drawing.toggle (d : Drawing) (x y : Nat) : Drawing where
  disp := d.disp.toggle x y
  collided := d.collided || !(d.disp.toggle x y).cell x y

/-- The columns k, k + 1, .. of a row that are still to come, `left` of them: iteration stops at the first column past
63, a set bit toggles its cell, a clear bit leaves it (R135, R136). -/
def drawColumns (b : Byte) (x0 y : Nat) : (left k : Nat) → Drawing → Drawing
  | 0, _, d => d
  | left + 1, k, d =>
    if 63 < x0 + k then d
    else drawColumns b x0 y left (k + 1) (if spriteColumn b k then d.toggle (x0 + k) y else d)

/-- The rows n, n + 1, .. of a sprite that are still to come, `left` of them: iteration stops at the first row past 31,
and a row's byte is read only when the row is drawn (R135, R136). -/
def drawRows (s : State) (x0 y0 : Nat) : (left n : Nat) → Drawing → Drawing
  | 0, _, d => d
  | left + 1, n, d =>
    if 31 < y0 + n then d
    else drawRows s x0 y0 left (n + 1)
      (drawColumns (s.readMem (spriteAddress s.i n)) x0 (y0 + n) 8 0 d)

/-- The whole draw of N rows, from the coordinates V[X] mod 64 and V[Y] mod 32 (R132), which are read before VF is
written. -/
def drawSprite (x y : Reg) (n : RowCount) (s : State) : Drawing :=
  drawRows s (startColumn (s.readV x)) (startRow (s.readV y)) n.val 0 { disp := s.disp, collided := false }

/-- `DRW VX, VY, N` (R131, R137). The register reads come first, and in the strict model they may raise UnwrittenRead,
V[X] and V[Y] before I (60_exceptions.md R165); then the range check over all N rows (R133), before any write. VF is
written once with its final value: R134's clear is not observable, since nothing reads VF between it and the end
(log entry 26). For N = 0 no row is drawn and VF is cleared (R139). -/
def execDrw (x y : Reg) (n : RowCount) (s : State) : Host.Outcome State Fault Refusal :=
  if !(s.readableV x && s.readableV y) then
    .next (s.raise .unwrittenRead (some (encode (.drw x y n))))
  else if !s.readableI then
    .next (s.raise .unwrittenRead (some (encode (.drw x y n))))
  else if spriteOutOfRange s.i n then
    .next (s.raise .spriteOutOfRange (some (encode (.drw x y n))))
  else
    .next (((s.advance).setDisp (drawSprite x y n s).disp).writeV flagRegister
      (collisionFlag (drawSprite x y n s).collided))

end Sys2Proof.Machine
end

