-- ==== Sys2Proof/Machine/Registers.lean ====
section
/-! DEFINITION. Register-file instructions (42_registers.md). -/

namespace Sys2Proof.Machine

/-- `LD VX, NN` (R120). -/
def execLdV (x : Reg) (nn : Byte) (s : State) : Host.Outcome State Fault Refusal :=
  .next (s.advance.writeV x nn)

/-- `ADD VX, NN` (R121): the wrapping sum, with no flag. In the strict model the read of V[X] comes first and may
raise UnwrittenRead (60_exceptions.md R165). -/
def execAddV (x : Reg) (nn : Byte) (s : State) : Host.Outcome State Fault Refusal :=
  if s.readableV x then .next (s.advance.writeV x (addByte (s.readV x) nn))
  else .next (s.raise .unwrittenRead (some (encode (.addV x nn))))

/-- `LD I, NNN` (R122). -/
def execLdI (nnn : Addr12) (s : State) : Host.Outcome State Fault Refusal :=
  .next (s.advance.writeI (zext16 nnn))

end Sys2Proof.Machine
end

