-- ==== Sys2Proof/Machine/Engine.lean ====
section
/-! DEFINITION. The fetch-decode-execute engine: one tick (40_engine.md R90 to R99). -/

namespace Sys2Proof.Machine

/-- Dispatch of a fetched word (R93, R94): the meaning of the instruction it decodes to, or UnsupportedOpcode with the
word (60_exceptions.md R151). -/
def dispatchWord (w : Word) (s : State) : Host.Outcome State Fault Refusal :=
  match decode w with
  | .ok i => exec i s
  | .error _ => .next (s.raise .unsupportedOpcode (some w))

/-- A tick of a core that is not halted: STARTED <- 1, then fetch, advance, decode and dispatch (R90). A fetch past
0xFFE raises FetchOutOfRange with no word (R91, 60_exceptions.md R152). The advance is made by each meaning, and a fault
leaves PC where it was (R92, R95, log entry 22). -/
def runTick (s : State) : Host.Outcome State Fault Refusal :=
  match s.start.fetch with
  | none => .next (s.start.raise .fetchOutOfRange none)
  | some w => dispatchWord w s.start

/-- A tick: while HALT = 1 it changes no state (R90, 60_exceptions.md R156). -/
def tick (s : State) : Host.Outcome State Fault Refusal :=
  if s.halt then .next s else runTick s

/-- The word stored at PC, big-endian, for a core made ready to fetch it: HALT is cleared, since a halted core fetches
nothing, and where PC > 0xFFE there is no place to store a word. -/
def placeWord (s : State) (w : Word) : State :=
  if 0xFFE < s.pc.toNat then { s with halt := false }
  else { s.writeMem s.pc.toNat (wordBytes w) with halt := false }

end Sys2Proof.Machine
end

