-- ==== Sys2Proof/Machine/Step.lean ====
section
/-! DEFINITION. One step of the machine is one tick (00_scope.md R13, 40_engine.md R90, R96). -/

namespace Sys2Proof.Machine

/-- One step. -/
def step (s : State) : Host.Outcome State Fault Refusal := tick s

/-- The state with a table row's word stored where the next tick fetches. It stands for the host's load, which is how
a program comes to run (70_reset_and_hazards.md R182, log entry 16). -/
def State.withFetchWord (s : State) (nbits w : Nat) : State := placeWord s (tableWord nbits w)

end Sys2Proof.Machine
end

