-- ==== Sys2Proof/Machine/Ports.lean ====
section
/-! DEFINITION. The ports of the block (10_state.md R36 to R38; decision D10, log entry 17): what the outside world can do
to the machine, and what it can read. -/

namespace Sys2Proof.Machine

/-! ### Ports that change state -/

/-- `reset`: construction again, in any state, with the implementation's own parameters (70_reset_and_hazards.md R180,
log entry 20). -/
def resetPort (s : State) : State := State.resetOf s.config

/-- `load(offset, bytes)` (20_memory.md R57): open while STARTED = 0 (R59), refused past the end of memory (R58). A load
over the font is not refused (R60). -/
def loadPort (offset : Nat) (bytes : List Byte) (s : State) : Host.Outcome State Fault Refusal :=
  if s.started then .refused .loadClosed
  else if memSize < offset + bytes.length then .refused .loadOutOfRange
  else .next (s.writeMem offset bytes)

/-- What a host can ask of the core. -/
inductive HostOp where
  | reset
  | load (offset : Nat) (bytes : List Byte)
  | tick
  /-- A write of V0-VF, I, PC, SP, STACK, DT or ST: the host "may not" (10_state.md R36). -/
  | writeRegister
  /-- A write of DISP: the host "may not" (10_state.md R36). -/
  | writeFramebuffer
  /-- A second tick while one is in progress: it "must not" (10_state.md R36, 70_reset_and_hazards.md R186). -/
  | tickInsideTick
  deriving DecidableEq, Repr

/-- One host operation on the core, an atomic transaction (10_state.md R37). -/
def HostOp.apply : HostOp → State → Host.Outcome State Fault Refusal
  | .reset, s => .next (resetPort s)
  | .load offset bytes, s => loadPort offset bytes s
  | .tick, s => step s
  | .writeRegister, _ => .refused .hostRegisterWrite
  | .writeFramebuffer, _ => .refused .hostFramebufferWrite
  | .tickInsideTick, _ => .refused .tickInsideTick

/-- A session: host operations one after another, stopping at the first refusal (20_memory.md R65). -/
def runOps : List HostOp → State → Host.Outcome State Fault Refusal
  | [], s => .next s
  | op :: ops, s =>
    match op.apply s with
    | .next t => runOps ops t
    | .fault f => .fault f
    | .refused r => .refused r

/-! ### Ports that only read -/

/-- The results of a tick on `tick_result` (40_engine.md R97). -/
inductive TickResult where
  | ok
  | fault (record : FaultRecord)
  | halted
  deriving DecidableEq, Repr

/-- `tick_result` for the tick that took the core from `s` to `t`: `halted` when HALT was already 1, the triple stored in
FAULT when this tick set HALT, `ok` otherwise (40_engine.md R97). -/
def tickResult (s t : State) : TickResult :=
  if s.halt then .halted
  else if t.halt then
    match t.fault with
    | some r => .fault r
    | none => .ok
  else .ok

/-- `peek_mem(a)` (20_memory.md R68). -/
def peekMem (a : Nat) (s : State) : Host.Outcome Byte Fault Refusal :=
  if a < memSize then .next (s.readMem a) else .refused .peekOutOfRange

/-- What `peek_regs` shows: V0..VF, I, PC, SP, STACK, DT, ST (10_state.md R37). -/
structure RegisterView where
  v : Vector Byte 16
  i : Word
  pc : Word
  sp : Byte
  stack : Vector Word 16
  dt : Byte
  st : Byte
  deriving DecidableEq, Repr

/-- `peek_regs`. -/
def peekRegs (s : State) : RegisterView where
  v := s.v
  i := s.i
  pc := s.pc
  sp := s.sp
  stack := s.stack
  dt := s.dt
  st := s.st

/-- `peek_disp`: all 2048 cells. -/
def peekDisp (s : State) : Display := s.disp

/-- `peek_instr`: the word a fetch would read, none when PC > 0xFFE (10_state.md R38, decision D20). -/
def peekInstr (s : State) : Option Word := s.fetch

/-- What `status` shows: HALT, FAULT, STARTED (10_state.md R37). -/
structure StatusView where
  halt : Bool
  fault : Option FaultRecord
  started : Bool
  deriving DecidableEq, Repr

/-- `status`. -/
def peekStatus (s : State) : StatusView where
  halt := s.halt
  fault := s.fault
  started := s.started

/-! ### The host's reaction to a fault (60_exceptions.md R157) -/

/-- What the host does after a fault: dump memory or terminate. Neither changes the core's state. -/
inductive HostReaction where
  | dump (words : List (Nat × Word))
  | terminate
  deriving DecidableEq, Repr

/-- The dump: every byte pair in address order, as the word of its even starting address, high byte first
(60_exceptions.md R157, decision D24). -/
def dumpWords (s : State) : List (Nat × Word) :=
  (List.range 2048).map fun k => (2 * k, joinBytes (s.readMem (2 * k)) (s.readMem (2 * k + 1)))

/-- The host's reaction to the tick from `s` to `t`: none unless it faulted; by DEBUG_DUMP, a dump or a termination
(log entry 18). -/
def hostReaction (s t : State) : Option HostReaction :=
  match tickResult s t with
  | .fault _ => some (if t.config.debugDump then .dump (dumpWords t) else .terminate)
  | .ok => none
  | .halted => none

end Sys2Proof.Machine
end

