-- ==== Sys2Proof/Safety.lean ====
section
/-! DEFINITION. What counts as a run's end, a safe session and a state the machine can be in, in the terms claims use. -/

namespace Sys2Proof

open Machine

/-- A run ends well at a state with HALT = 0 whose instruction at PC is `1NNN` with NNN = PC (40_engine.md R100,
decision D16, log entry 25). -/
def EndsWell (s : State) : Prop :=
  s.halt = false ∧ ∃ nnn : Addr12, zext16 nnn = s.pc ∧ s.fetch = some (encode (.jp nnn))

/-- A run ends in a fault at a state with HALT = 1 (40_engine.md R100). -/
def EndsInFault (s : State) : Prop := s.halt = true

/-- The state a session of host operations from reset leads to, for some parameters. -/
def Reachable (s : State) : Prop := ∃ (c : Config) (ops : List HostOp), runOps ops (State.resetOf c) = .next s

/-- The instruction `i` executes normally at `s`: it reads no register that the strict model forbids
(60_exceptions.md R165) and its sprite lies inside memory (43_display.md R133). -/
def Completes (i : Instr) (s : State) : Prop :=
  match i with
  | .cls => True
  | .jp _ => True
  | .ldV _ _ => True
  | .addV x _ => s.readableV x = true
  | .ldI _ => True
  | .drw x y n =>
    s.readableV x = true ∧ s.readableV y = true ∧ s.readableI = true ∧ spriteOutOfRange s.i n = false

/-- Whether the clipped sprite of `DRW VX, VY, N` lights the cell (px, py): the cell lies in the grid and under the sprite,
and bit 7 - k of the byte at I + n is set, for the column k and the row n of the cell within the sprite (43_display.md R132,
R135, R136; it is the s(x, y) of R138). -/
def spriteLights (s : State) (x y : Reg) (n : RowCount) (px py : Nat) : Prop :=
  px < 64 ∧ py < 32 ∧
  ∃ k row, k < 8 ∧ row < n.val ∧ px = (s.readV x).toNat % 64 + k ∧ py = (s.readV y).toNat % 32 + row ∧
    (s.readMem (s.i.toNat + row)).getLsbD (7 - k) = true

/-- The state a strict machine's state corresponds to in the default model: STRICT_UNWRITTEN = false, with any WRITTEN
bits, which the default model does not have (10_state.md R40). -/
def asDefaultModel (w : Written) (s : State) : State :=
  { s with config := { s.config with strictUnwritten := false }, written := w }

/-- What every reachable state satisfies. -/
structure StateInv (s : State) : Prop where
  /-- Memory is in canonical form. -/
  memCanonical : Memory.wf s.config s.mem
  /-- I <= 0x0FFF (10_state.md R24). -/
  indexInRange : s.i.toNat ≤ 0x0FFF
  /-- 0 <= PC <= 0x1000 (R26). -/
  pcInRange : s.pc.toNat ≤ 0x1000
  /-- SP, STACK, DT and ST keep their reset values (R27, R28, R29). -/
  neverWritten : s.sp = 0 ∧ s.stack = Vector.replicate 16 0 ∧ s.dt = 0 ∧ s.st = 0
  /-- HALT is set exactly when FAULT holds a record (R32, R33). -/
  haltIffFault : s.halt = s.fault.isSome
  /-- A halted core has been started (R34). -/
  haltedWasStarted : s.halt = true → s.started = true
  /-- The record names the instruction at PC: its address, its word or none when the fetch fails (R33), and
  UnwrittenRead only in the strict model (60_exceptions.md R150). -/
  recordAtPc : ∀ r, s.fault = some r → r.pc = s.pc ∧ r.word = s.fetch ∧
    (r.fault = .fetchOutOfRange ↔ r.word = none) ∧ (r.fault = .unwrittenRead → s.config.strictUnwritten = true)
  /-- Before the first tick nothing but memory differs from reset (20_memory.md R57, 10_state.md R34). -/
  freshBeforeStart : s.started = false → s = { State.resetOf s.config with mem := s.mem }
  /-- In the default model WRITTEN does not move (R40). -/
  writtenDefault : s.config.strictUnwritten = false → s.written = (State.resetOf s.config).written
  /-- A register whose WRITTEN bit is 0 holds its reset value (R39, R40). -/
  unwrittenIsReset : s.config.strictUnwritten = true →
    (∀ x : Reg, s.written.v[x] = false → s.v[x] = 0) ∧ (s.written.i = false → s.i = 0)

end Sys2Proof
end

