-- ==== Sys2Proof/Certificates/Slice0/Obligations.lean ====
section
/-! DEFINITION. The statements for the provers. The docstring of each names the rule of spec/ it states, and says where a
clause rests on one of the spec's own decisions (92_eei_decisions.md) or on a choice of the model. -/

open Sys2Proof Sys2Proof.Machine

/-! ### Words and instructions -/

/-- 30_encoding.md R71, its six fields as numbers. -/
def Obligations.FieldsAreTheNamedBits : Prop :=
  ∀ w : Word,
    (fieldF w).toNat = w.toNat / 4096 ∧ (fieldX w).val = w.toNat / 256 % 16 ∧
    (fieldY w).val = w.toNat / 16 % 16 ∧ (fieldN w).val = w.toNat % 16 ∧
    (fieldNN w).toNat = w.toNat % 256 ∧ (fieldNNN w).toNat = w.toNat % 4096

/-- The table of 30_encoding.md R73: a word decodes to a row's instruction exactly when it matches under the row's mask, and
to UNSUPPORTED exactly when it matches no row. -/
def Obligations.DecoderFollowsTheOpcodeMap : Prop :=
  ∀ w : Word,
    (decode w = .ok .cls ↔ w &&& 0xFFFF = 0x00E0) ∧
    ((∃ nnn, decode w = .ok (.jp nnn)) ↔ w &&& 0xF000 = 0x1000) ∧
    ((∃ x nn, decode w = .ok (.ldV x nn)) ↔ w &&& 0xF000 = 0x6000) ∧
    ((∃ x nn, decode w = .ok (.addV x nn)) ↔ w &&& 0xF000 = 0x7000) ∧
    ((∃ nnn, decode w = .ok (.ldI nnn)) ↔ w &&& 0xF000 = 0xA000) ∧
    ((∃ x y n, decode w = .ok (.drw x y n)) ↔ w &&& 0xF000 = 0xD000) ∧
    (decode w = .error (.unsupported w) ↔
      w ≠ 0x00E0 ∧ w &&& 0xF000 ≠ 0x1000 ∧ w &&& 0xF000 ≠ 0x6000 ∧ w &&& 0xF000 ≠ 0x7000 ∧
      w &&& 0xF000 ≠ 0xA000 ∧ w &&& 0xF000 ≠ 0xD000)

/-- 30_encoding.md R74: family 0x0 holds the one instruction 0x00E0, which clears the whole framebuffer, and a tick at any
other word of the family fails with UnsupportedOpcode. That a failing tick answers a next state, with HALT set and a record
naming PC, is the model's reading (log entry 1, DEDUCED) of the spec's own decisions D5 and D6 (log entry 8). -/
def Obligations.FamilyZeroHoldsOnlyClear : Prop :=
  ∀ w : Word, w.toNat < 0x1000 →
    (w = 0x00E0 → decode w = .ok .cls ∧
      ∀ s : State, s.halt = false → s.fetch = some w →
        ∃ t, step s = .next t ∧ tickResult s t = .ok ∧ ∀ x y, x < 64 → y < 32 → t.disp.cell x y = false) ∧
    (w ≠ 0x00E0 → decode w = .error (.unsupported w) ∧
      ∀ s : State, s.halt = false → s.fetch = some w →
        ∃ t, step s = .next t ∧
          tickResult s t = .fault { fault := .unsupportedOpcode, word := some w, pc := s.pc })

/-- 30_encoding.md R75: every word of the ten unsupported families fails, at every tick that fetches it. That a failing
tick answers a next state, with HALT set and a record naming PC, is the model's reading (log entry 1, DEDUCED) of the spec's
own decisions D5 and D6 (log entry 8). -/
def Obligations.UnsupportedFamiliesAlwaysFail : Prop :=
  ∀ w : Word, (fieldF w).toNat ∈ [0x2, 0x3, 0x4, 0x5, 0x8, 0x9, 0xB, 0xC, 0xE, 0xF] →
    decode w = .error (.unsupported w) ∧
    ∀ s : State, s.halt = false → s.fetch = some w →
      ∃ t, step s = .next t ∧
        tickResult s t = .fault { fault := .unsupportedOpcode, word := some w, pc := s.pc }

/-- Decoding the encoding of an instruction gives it back, with every operand, and consumes exactly its two bytes
(30_encoding.md R71, R77, R78, R79). -/
def Obligations.DecodeOfEncode : Prop :=
  ∀ (i : Instr) (rest : List Byte),
    decode (encode i) = .ok i ∧ decodeBytes (encodeBytes i ++ rest) = .ok (i, rest) ∧
    decodeTableWord 16 (encode i).toNat = some i

/-- A word that decodes is the encoding of what it decodes to: no two words mean one instruction (30_encoding.md R76). -/
def Obligations.EncodeOfDecode : Prop :=
  ∀ (w : Word) (i : Instr), decode w = .ok i → encode i = w

/-- Words written out from the table (95_test_vectors.md DEC1 to DEC12): one of each family. -/
def Obligations.TableWordsDecode : Prop :=
  decodeBytes [0b00000000#8, 0b11100000#8] = .ok (.cls, []) ∧
  decodeBytes [0b00010000#8, 0b11100000#8] = .ok (.jp 0x0E0, []) ∧
  decodeBytes [0b01101111#8, 0b11111111#8] = .ok (.ldV 0xF 0xFF, []) ∧
  decodeBytes [0b01110000#8, 0b00000000#8] = .ok (.addV 0 0x00, []) ∧
  decodeBytes [0b10100000#8, 0b00000000#8] = .ok (.ldI 0x000, []) ∧
  decodeBytes [0b11010001#8, 0b00101111#8] = .ok (.drw 1 2 0xF, []) ∧
  decodeBytes [0b00000000#8, 0b11101110#8] = .error (.unsupported 0x00EE)

/-- An instruction is always two bytes, with no prefix and no longer or shorter form (30_encoding.md R78). A fetch reads two
bytes and no other (R78; 40_engine.md R91, 20_memory.md R62): the word fetched is the byte at PC followed by the byte at
PC + 1, and where those two are the same, the same word is fetched. -/
def Obligations.InstructionsAreTwoBytes : Prop :=
  (∀ (bytes rest : List Byte) (i : Instr), decodeBytes bytes = .ok (i, rest) →
    ∃ hi lo, bytes = [hi, lo] ++ rest ∧ ∀ rest', decodeBytes ([hi, lo] ++ rest') = .ok (i, rest')) ∧
  (∀ i : Instr, (encodeBytes i).length = 2) ∧
  (∀ (s t : State) (w : Word), s.fetch = some w → t.pc = s.pc →
    t.readMem s.pc.toNat = s.readMem s.pc.toNat → t.readMem (s.pc.toNat + 1) = s.readMem (s.pc.toNat + 1) →
    w = joinBytes (s.readMem s.pc.toNat) (s.readMem (s.pc.toNat + 1)) ∧ t.fetch = some w)

/-- 30_encoding.md R79, R80: the assembler accepts a line exactly when every operand fits its field; an accepted instruction
line is that instruction's own line and emits its two bytes; the directives emit their datum, a word high byte first. The
notation is the spec's own decision D15 (log entry 21). -/
def Obligations.AssemblerAcceptsWhatFits : Prop :=
  (∀ l : AsmLine, l.assemble.isSome = l.wellFormed) ∧
  (∀ (l : AsmLine) (i : Instr), l.instr? = some i → i.asmLine = l ∧ l.assemble = some (encodeBytes i)) ∧
  (∀ i : Instr, i.asmLine.instr? = some i) ∧
  (∀ hi lo : Byte, (AsmLine.dw (hi.toNat * 256 + lo.toNat)).assemble = some [hi, lo]) ∧
  (∀ b : Byte, (AsmLine.db b.toNat).assemble = some [b])

/-! ### The tick -/

/-- A step runs the decoded instruction: when the two bytes at PC decode to `i`, a step of a core that is not halted sets
STARTED and is `exec i` (40_engine.md R90, R93, R94). The advance of R92 is part of each meaning (log entry 22). -/
def Obligations.StepRunsTheDecodedInstruction : Prop :=
  ∀ (s : State) (i : Instr), s.halt = false → s.pc.toNat ≤ 0xFFE →
    decodeBytes [s.readMem s.pc.toNat, s.readMem (s.pc.toNat + 1)] = .ok (i, []) →
    step s = exec i { s with started := true }

/-- The fetch is big-endian and needs both bytes inside memory; `peek_instr` shows the same word (40_engine.md R91,
20_memory.md R62, 10_state.md R38). What stands where no fetch is possible is the spec's own decisions D3 and D20 (log entry
6). -/
def Obligations.FetchIsBigEndian : Prop :=
  ∀ s : State,
    (s.pc.toNat ≤ 0xFFE → ∃ w, s.fetch = some w ∧ peekInstr s = some w ∧
      w.toNat = (s.readMem s.pc.toNat).toNat * 256 + (s.readMem (s.pc.toNat + 1)).toNat) ∧
    (0xFFE < s.pc.toNat → s.fetch = none ∧ peekInstr s = none)

/-- A fetch past 0xFFE raises FetchOutOfRange with no word and writes only the latches (60_exceptions.md R152, R155): the
spec's own decisions D3 (log entry 6), D5 and D6 (log entry 8). That the fault is a next state is log entry 1 (DEDUCED). -/
def Obligations.FetchPastTheEndFaults : Prop :=
  ∀ s : State, s.halt = false → 0xFFE < s.pc.toNat →
    ∃ t, step s = .next t ∧
      t = { s with
            started := true, halt := true,
            fault := some { fault := .fetchOutOfRange, word := none, pc := s.pc } } ∧
      tickResult s t = .fault { fault := .fetchOutOfRange, word := none, pc := s.pc }

/-- Every tick answers a next state: none is refused, a fault of the spec is a next state too (40_engine.md R90, R99; log
entry 1, DEDUCED), and a halted core still answers its ticks (the spec's own decision D6, log entry 8). -/
def Obligations.EveryTickAnswersNext : Prop :=
  ∀ s : State, ∃ t, step s = .next t

/-- While HALT = 1 a tick changes no state and returns `halted` (40_engine.md R90, 60_exceptions.md R156): the spec's own
decision D6 (log entry 8). -/
def Obligations.HaltedTicksChangeNothing : Prop :=
  ∀ (s : State) (k : Nat), s.halt = true →
    Sys2Proof.core.run k s = .next s ∧ tickResult s s = .halted

/-- Precise faults: a tick that faults writes STARTED, HALT and FAULT and nothing else, and the record names the instruction
at PC by its address and by the word a fetch there reads (40_engine.md R95, 60_exceptions.md R155): the spec's own decisions
D5 and D6 (log entry 8). That the fault is a next state is log entry 1 (DEDUCED). -/
def Obligations.FaultsArePrecise : Prop :=
  ∀ s t : State, s.halt = false → step s = .next t → t.halt = true →
    ∃ r, t = { s with started := true, halt := true, fault := some r } ∧
      r.pc = s.pc ∧ r.word = s.fetch ∧ tickResult s t = .fault r

/-- The frame rule 40_engine.md R98: a tick that completes writes STARTED, PC and what its instruction's rule names. That a
destination's WRITTEN bit may move is R165, the spec's own decision D2 (log entry 5); reading a completed tick as one that
does not end halted, hence one that fetched and decoded, is log entry 1 (DEDUCED) and decisions D3, D5 and D6 (log entries 6
and 8). -/
def Obligations.CompletedTicksWriteOnlyTheirState : Prop :=
  ∀ s t : State, s.halt = false → step s = .next t → t.halt = false →
    ∃ w i, s.fetch = some w ∧ decode w = .ok i ∧
      t.started = true ∧ t.fault = s.fault ∧ t.config = s.config ∧ t.mem = s.mem ∧
      t.sp = s.sp ∧ t.stack = s.stack ∧ t.dt = s.dt ∧ t.st = s.st ∧
      (∀ nnn, i = .jp nnn → t.pc = nnn.setWidth 16) ∧
      ((∀ nnn, i ≠ .jp nnn) → t.pc = s.pc + 2) ∧
      ((∀ nnn, i ≠ .ldI nnn) → t.i = s.i ∧ t.written.i = s.written.i) ∧
      (i ≠ .cls → (∀ x y n, i ≠ .drw x y n) → t.disp = s.disp) ∧
      (∀ r : Reg, (∀ nn, i ≠ .ldV r nn) → (∀ nn, i ≠ .addV r nn) →
        (r = 0xF → ∀ x y n, i ≠ .drw x y n) →
        t.readV r = s.readV r ∧ t.written.v[r] = s.written.v[r])

/-- The causes of a fault and their order (60_exceptions.md R150, R154, R165): fetch, then dispatch, then the strict model's
unwritten reads, then the sprite range; and where none applies the tick completes. The causes but UnsupportedOpcode are the
spec's own decisions D2 (log entry 5), D3 (log entry 6), D4 and D22 (log entry 7) and D7 (log entry 9); that each fault is a
next state with a record naming PC is log entries 1 and 8 (D5 and D6). -/
def Obligations.FaultCausesInOrder : Prop :=
  ∀ s t : State, s.halt = false → step s = .next t →
    (0xFFE < s.pc.toNat →
      tickResult s t = .fault { fault := .fetchOutOfRange, word := none, pc := s.pc }) ∧
    ∀ w, s.fetch = some w →
      ((∀ i, decode w ≠ .ok i) →
        tickResult s t = .fault { fault := .unsupportedOpcode, word := some w, pc := s.pc }) ∧
      (∀ x nn, decode w = .ok (.addV x nn) →
        s.config.strictUnwritten = true → s.written.v[x] = false →
        tickResult s t = .fault { fault := .unwrittenRead, word := some w, pc := s.pc }) ∧
      (∀ x y n, decode w = .ok (.drw x y n) →
        s.config.strictUnwritten = true →
        (s.written.v[x] = false ∨ s.written.v[y] = false ∨ s.written.i = false) →
        tickResult s t = .fault { fault := .unwrittenRead, word := some w, pc := s.pc }) ∧
      (∀ x y n, decode w = .ok (.drw x y n) →
        (s.config.strictUnwritten = true →
          s.written.v[x] = true ∧ s.written.v[y] = true ∧ s.written.i = true) →
        1 ≤ n.val → 0xFFF < s.i.toNat + (n.val - 1) →
        tickResult s t = .fault { fault := .spriteOutOfRange, word := some w, pc := s.pc }) ∧
      (∀ i, decode w = .ok i → Completes i s → tickResult s t = .ok)

/-- The three results of a tick on `tick_result`, and no other (40_engine.md R97). The halt on a fault and the result
`halted` are the spec's own decisions D5 and D6 (log entry 8); that `tick_result` is a function of the two states is the
model's choice (log entry 17). -/
def Obligations.TickResultSaysWhatHappened : Prop :=
  ∀ s t : State, step s = .next t →
    (tickResult s t = .halted ↔ s.halt = true) ∧
    (tickResult s t = .ok ↔ s.halt = false ∧ t.halt = false) ∧
    (∀ r, tickResult s t = .fault r ↔ s.halt = false ∧ t.halt = true ∧ t.fault = some r)

/-- 40_engine.md R101: the self-jump is the only fixed point of a tick of a started core that is not halted. That a tick that
faults sets HALT, and so changes the state, is the spec's own decision D6 (log entry 8) and log entry 1 (DEDUCED). -/
def Obligations.OnlyTheSelfJumpIsFixed : Prop :=
  ∀ s : State, s.halt = false → s.started = true →
    (step s = .next s ↔ ∃ nnn : Addr12, nnn.setWidth 16 = s.pc ∧ s.fetch = some (encode (.jp nnn)))

/-- How PC comes to an address that no word can be fetched from (40_engine.md R92, 41_control.md R110): to 0xFFF by JP 0xFFF,
or by the advance of another instruction from the odd PC 0xFFD; to 0x1000 only by the advance from 0xFFE. The second way to
0xFFF is the model's choice of R92 and 20_memory.md R64 (decision D19, log entry 12) over a sentence of 60_exceptions.md R152
(log entry 27). That a faulting tick leaves PC, a failed fetch included, is the spec's own decisions D3, D5 and D6 (log
entries 1, 6 and 8). -/
def Obligations.PcPastTheLastFetch : Prop :=
  ∀ s t : State, step s = .next t → t.pc ≠ s.pc →
    (t.pc = 0xFFF → ∃ w i, s.fetch = some w ∧ decode w = .ok i ∧
      (i = .jp 0xFFF ∨ (s.pc = 0xFFD ∧ ∀ nnn, i ≠ .jp nnn))) ∧
    (t.pc = 0x1000 → s.pc = 0xFFE ∧ ∃ w i, s.fetch = some w ∧ decode w = .ok i ∧ ∀ nnn, i ≠ .jp nnn)

/-- A run that has ended well stays where it is at every later tick, with the result `ok` (40_engine.md R100; decision D16).
The end of a run is log entry 25. -/
def Obligations.GoodEndsAreStable : Prop :=
  ∀ (s : State) (k : Nat), EndsWell s → s.started = true →
    Sys2Proof.core.run k s = .next s ∧ tickResult s s = .ok

/-! ### The instructions -/

/-- 43_display.md R130: encoding, effect on every cell, nothing else but the advance, and no effect on a clear buffer. -/
def Obligations.ClearSetsEveryCellFalse : Prop :=
  (∀ w : Word, decode w = .ok .cls ↔ w = 0x00E0) ∧
  ∀ s : State, ∃ t, exec .cls s = .next t ∧
    (∀ x y, x < 64 → y < 32 → t.disp.cell x y = false) ∧
    t = { s with disp := t.disp, pc := s.pc + 2 } ∧
    ((∀ x y, x < 64 → y < 32 → s.disp.cell x y = false) → t.disp = s.disp)

/-- 41_control.md R110: encoding, effect (nothing but PC), and what the fetch at the target can do on the next tick.
That the fetch at 0xFFF faults is the spec's own decision D3 (log entry 6); that either fault is a next state, with HALT set
and a record naming PC, is log entry 1 (DEDUCED) and decisions D5 and D6 (log entry 8). -/
def Obligations.JumpSetsPcToItsTarget : Prop :=
  (∀ w : Word, w &&& 0xF000 = 0x1000 → decode w = .ok (.jp (w.setWidth 12))) ∧
  ∀ (nnn : Addr12) (s : State), ∃ t, exec (.jp nnn) s = .next t ∧
    t = { s with pc := nnn.setWidth 16 } ∧ t.pc.toNat = nnn.toNat ∧
    (s.halt = false → nnn = 0xFFF → ∃ u, step t = .next u ∧
      tickResult t u = .fault { fault := .fetchOutOfRange, word := none, pc := 0xFFF }) ∧
    (s.halt = false → ∀ w, t.fetch = some w → (∀ i, decode w ≠ .ok i) → ∃ u, step t = .next u ∧
      tickResult t u = .fault { fault := .unsupportedOpcode, word := some w, pc := t.pc })

/-- 42_registers.md R120: encoding, the destination's value, every other register, and nothing else but the advance (and the
strict model's bit of V[X]). That bit is the spec's own decision D2 (60_exceptions.md R165, log entry 5). -/
def Obligations.LoadImmediateSetsRegister : Prop :=
  (∀ w : Word, w &&& 0xF000 = 0x6000 → decode w = .ok (.ldV (fieldX w) (w.setWidth 8))) ∧
  ∀ (x : Reg) (nn : Byte) (s : State), ∃ t, exec (.ldV x nn) s = .next t ∧
    t.readV x = nn ∧ (∀ r, r ≠ x → t.readV r = s.readV r) ∧
    t = { s with v := t.v, pc := s.pc + 2, written := s.markV x }

/-- 42_registers.md R121: encoding, the sum modulo 256, no flag (no other register changes, VF included), and nothing else but
the advance (and the strict model's bit of V[X]); in the strict model the read of an unwritten V[X] raises UnwrittenRead.
That strict read is the spec's own decision D2 (log entry 5); that the fault is precise, and a next state, is decisions D5
and D6 (log entry 8) and log entry 1 (DEDUCED). -/
def Obligations.AddImmediateWrapsWithoutFlag : Prop :=
  (∀ w : Word, w &&& 0xF000 = 0x7000 → decode w = .ok (.addV (fieldX w) (w.setWidth 8))) ∧
  ∀ (x : Reg) (nn : Byte) (s : State),
    ((s.config.strictUnwritten = true → s.written.v[x] = true) → ∃ t, exec (.addV x nn) s = .next t ∧
      (t.readV x).toNat = ((s.readV x).toNat + nn.toNat) % 256 ∧ (∀ r, r ≠ x → t.readV r = s.readV r) ∧
      t = { s with v := t.v, pc := s.pc + 2, written := s.markV x }) ∧
    (s.config.strictUnwritten = true → s.written.v[x] = false →
      exec (.addV x nn) s = .next { s with
        started := true, halt := true,
        fault := some { fault := .unwrittenRead, word := some (encode (.addV x nn)), pc := s.pc } })

/-- 42_registers.md R122: encoding, I's value and its upper bits, nothing else but the advance (and the strict model's bit of
I), and the draw that faults later because of this I. That fault is the spec's own decisions D4 and D22 (log entry 7), the
strict reads before it are D2 (log entry 5), and its being precise, and a next state, is decisions D5 and D6 (log entry 8) and
log entry 1 (DEDUCED). -/
def Obligations.LoadIndexSetsI : Prop :=
  (∀ w : Word, w &&& 0xF000 = 0xA000 → decode w = .ok (.ldI (w.setWidth 12))) ∧
  ∀ (nnn : Addr12) (s : State), ∃ t, exec (.ldI nnn) s = .next t ∧
    t.i.toNat = nnn.toNat ∧ t.i.toNat ≤ 0xFFF ∧
    t = { s with i := nnn.setWidth 16, pc := s.pc + 2, written := s.markI } ∧
    ∀ (x y : Reg) (n : RowCount), t.readableV x = true → t.readableV y = true →
      1 ≤ n.val → 0xFFF < nnn.toNat + (n.val - 1) →
      exec (.drw x y n) t = .next { t with
        started := true, halt := true,
        fault := some { fault := .spriteOutOfRange, word := some (encode (.drw x y n)), pc := t.pc } }

/-- 43_display.md R132, R135, R136, R138: the coordinates come from V[X] and V[Y] as they were before VF was written; a cell
is inverted exactly when the clipped sprite's bit there is set; VF is 1 exactly when a cell went from on to off, and 0
otherwise; nothing else changes but the advance (and the strict model's bit of VF). That clipping tests the target cell is
90_conflicts.md C4 (log entry 24, DEDUCED). The condition under which it executes, and the sprite's address without a mask,
are R133's (the spec's own decisions D4 and D22, log entry 7) and, in the strict model, R165's (decision D2, log entry 5). -/
def Obligations.DrawXorsTheClippedSprite : Prop :=
  ∀ (x y : Reg) (n : RowCount) (s : State),
    (s.config.strictUnwritten = true →
      s.written.v[x] = true ∧ s.written.v[y] = true ∧ s.written.i = true) →
    (1 ≤ n.val → s.i.toNat + (n.val - 1) ≤ 0xFFF) →
    ∃ t, exec (.drw x y n) s = .next t ∧
      (∀ px py, px < 64 → py < 32 →
        (spriteLights s x y n px py → t.disp.cell px py = !s.disp.cell px py) ∧
        (¬ spriteLights s x y n px py → t.disp.cell px py = s.disp.cell px py)) ∧
      ((∃ px py, s.disp.cell px py = true ∧ t.disp.cell px py = false) → t.readV 0xF = 0x01) ∧
      ((∀ px py, s.disp.cell px py = true → t.disp.cell px py = true) → t.readV 0xF = 0x00) ∧
      (∀ r, r ≠ 0xF → t.readV r = s.readV r) ∧
      t = { s with disp := t.disp, v := t.v, pc := s.pc + 2, written := s.markV 0xF }

/-- `DXY0` draws nothing, reads no byte and clears VF (43_display.md R139), whatever I is. The strict model's reads and its
bit of VF are the spec's own decision D2 (log entry 5); that no range check is made for N = 0 is D4 (log entry 7). -/
def Obligations.DrawOfNoRowsOnlyClearsVf : Prop :=
  ∀ (x y : Reg) (s : State),
    (s.config.strictUnwritten = true →
      s.written.v[x] = true ∧ s.written.v[y] = true ∧ s.written.i = true) →
    exec (.drw x y 0) s = .next { s with
      v := s.v.set 0xF 0x00, pc := s.pc + 2, written := s.markV 0xF }

/-- A sprite with a row past 0xFFF, clipped or not, is refused before any effect (43_display.md R133, 60_exceptions.md R153).
The fault is the spec's own decisions D4 and D22 (log entry 7) and the strict reads before it D2 (log entry 5); that it is
precise is D5 and D6 (log entry 8), and that it is a next state is log entry 1 (DEDUCED). -/
def Obligations.SpriteOutOfRangeFaults : Prop :=
  ∀ (x y : Reg) (n : RowCount) (s : State),
    (s.config.strictUnwritten = true →
      s.written.v[x] = true ∧ s.written.v[y] = true ∧ s.written.i = true) →
    1 ≤ n.val → 0xFFF < s.i.toNat + (n.val - 1) →
    exec (.drw x y n) s = .next { s with
      started := true, halt := true,
      fault := some { fault := .spriteOutOfRange, word := some (encode (.drw x y n)), pc := s.pc } }

/-- In the strict model a draw that reads a V register or I that no instruction has written raises UnwrittenRead, also when
its sprite is out of range (60_exceptions.md R154, R155, R165). The strict read is the spec's own decision D2 (log entry 5);
that the fault is precise, with HALT set and a record naming PC, is decisions D5 and D6 (log entry 8), and that it is a next
state is log entry 1 (DEDUCED). -/
def Obligations.UnwrittenDrawOperandsFault : Prop :=
  ∀ (x y : Reg) (n : RowCount) (s : State), s.config.strictUnwritten = true →
    (s.written.v[x] = false ∨ s.written.v[y] = false ∨ s.written.i = false) →
    exec (.drw x y n) s = .next { s with
      started := true, halt := true,
      fault := some { fault := .unwrittenRead, word := some (encode (.drw x y n)), pc := s.pc } }

/-- Drawing the same sprite at the same place a second time restores the framebuffer (95_test_vectors.md S9); the registers
that hold the coordinates are not VF, which the first draw writes. When a draw completes is the spec's own decisions D2, D4
and D22 (log entries 5 and 7), and its clipping is 90_conflicts.md C4 (log entry 24, DEDUCED). -/
def Obligations.DrawingTwiceRestoresTheFramebuffer : Prop :=
  ∀ (x y : Reg) (n : RowCount) (s t u : State), x ≠ 0xF → y ≠ 0xF →
    Completes (.drw x y n) s → exec (.drw x y n) s = .next t → exec (.drw x y n) t = .next u →
    u.disp = s.disp ∧
    (u.readV 0xF = 0x01 ↔ ∃ px py, spriteLights s x y n px py ∧ s.disp.cell px py = false)

/-- Rows below the bottom edge are not read: a draw's result depends on no byte of a row that clipping skips (43_display.md
R135). The range check is over all rows, so it does not depend on memory at all. That rows are clipped at the target row is
90_conflicts.md C4 (log entry 24, DEDUCED); that the checks read no memory and cover all rows is the spec's own decisions D2,
D4 and D22 (log entries 5 and 7), and that a draw that fails them is a next state is log entries 1 and 8 (D5 and D6). -/
def Obligations.ClippedRowsAreNotRead : Prop :=
  ∀ (x y : Reg) (n : RowCount) (s t : State) (m : Memory),
    (∀ row, row < n.val → (s.readV y).toNat % 32 + row ≤ 31 →
      Memory.read s.config m (s.i.toNat + row) = s.readMem (s.i.toNat + row)) →
    exec (.drw x y n) s = .next t → exec (.drw x y n) { s with mem := m } = .next { t with mem := m }

/-- Frame of the instructions with a register or PC as destination: JP, LD VX, ADD VX, LD I. Memory is said byte by byte; the
three latches change only when ADD faults. That only the strict model's ADD can fail to complete is the spec's own decision
D2 (log entry 5); that it then writes nothing but the latches is D5 and D6 (log entry 8), and that its fault is a next state
is log entry 1 (DEDUCED). -/
def Obligations.FrameOfRegisterInstructions : Prop :=
  ∀ (i : Instr) (s t : State), i ≠ .cls → (∀ x y n, i ≠ .drw x y n) → exec i s = .next t →
    (∀ r : Reg, (∀ nn, i ≠ .ldV r nn) → (∀ nn, i ≠ .addV r nn) →
      t.readV r = s.readV r ∧ t.written.v[r] = s.written.v[r]) ∧
    ((∀ nnn, i ≠ .ldI nnn) → t.i = s.i ∧ t.written.i = s.written.i) ∧
    (∀ a, t.readMem a = s.readMem a) ∧
    t.disp = s.disp ∧ t.sp = s.sp ∧ t.stack = s.stack ∧ t.dt = s.dt ∧ t.st = s.st ∧ t.config = s.config ∧
    (Completes i s → t.halt = s.halt ∧ t.fault = s.fault ∧ t.started = s.started)

/-- Frame of the display instructions CLS and DRW: of the registers only VF can change, and only in DRW; memory is said byte
by byte; the three latches change only when DRW faults, and then the framebuffer and VF do not. When a DRW does not complete
is the spec's own decisions D4 and D22 (43_display.md R133, log entry 7) and, in the strict model, D2 (60_exceptions.md R165,
log entry 5); that it then leaves DISP, V and PC as they were is decisions D5 and D6 (R155, log entry 8), and that its fault
is a next state is log entry 1 (DEDUCED). -/
def Obligations.FrameOfDisplayInstructions : Prop :=
  ∀ (i : Instr) (s t : State), (i = .cls ∨ ∃ x y n, i = .drw x y n) → exec i s = .next t →
    (∀ r : Reg, (r ≠ 0xF ∨ i = .cls) → t.readV r = s.readV r ∧ t.written.v[r] = s.written.v[r]) ∧
    t.i = s.i ∧ t.written.i = s.written.i ∧ (∀ a, t.readMem a = s.readMem a) ∧
    t.sp = s.sp ∧ t.stack = s.stack ∧ t.dt = s.dt ∧ t.st = s.st ∧ t.config = s.config ∧
    (Completes i s → t.halt = s.halt ∧ t.fault = s.fault ∧ t.started = s.started) ∧
    (¬ Completes i s → t.disp = s.disp ∧ t.v = s.v ∧ t.pc = s.pc)

/-! ### The strict model and the parameters -/

/-- In the default model UnwrittenRead does not exist (60_exceptions.md R165): the spec's own decision D2 (log entry 5). -/
def Obligations.UnwrittenReadIsStrictOnly : Prop :=
  ∀ s t : State, s.config.strictUnwritten = false → s.halt = false → step s = .next t →
    ∀ r, tickResult s t = .fault r → r.fault ≠ .unwrittenRead

/-- "The strict model errs only toward unprovable" (60_exceptions.md R165; decision D2): a tick of the strict model that
raises no UnwrittenRead does in the default model exactly the same, but for the WRITTEN bits, which that model does not have.
The strict model is log entry 5, and a faulting tick's next state log entries 1 and 8 (D5 and D6). -/
def Obligations.StrictModelRefinesDefault : Prop :=
  ∀ (s t : State) (w : Written), s.config.strictUnwritten = true → step s = .next t →
    (∀ r, tickResult s t = .fault r → r.fault ≠ .unwrittenRead) →
    step (asDefaultModel w s) = .next (asDefaultModel w t) ∧
    tickResult (asDefaultModel w s) (asDefaultModel w t) = tickResult s t

/-- A tick sees memory, and through it FONT, only through the bytes 0x000..0xFFF (20_memory.md R50, R54, R61): two machines
whose bytes there agree, with whatever fonts and lists behind them, make the same tick. That no tick reads past 0xFFF rests
on the spec's own decisions D3, D4 and D22 (log entries 6 and 7). -/
def Obligations.TicksSeeMemoryOnlyThroughItsBytes : Prop :=
  ∀ (s t : State) (c : Config) (m : Memory), c.strictUnwritten = s.config.strictUnwritten →
    (∀ a, a ≤ 0xFFF → Memory.read c m a = s.readMem a) → step s = .next t →
    step { s with config := c, mem := m } = .next { t with config := c, mem := m } ∧
    tickResult { s with config := c, mem := m } { t with config := c, mem := m } = tickResult s t

/-! ### Memory, load, reset -/

/-- Ticks never write MEM, SP, STACK, DT or ST (20_memory.md R52, 10_state.md R27, R28, R29): after any number of them each
reads as before. That DT, ST, SP and STACK are constant is the spec's own decisions D13 and D14 (log entry 13). -/
def Obligations.RunsNeverWriteMemoryOrStack : Prop :=
  ∀ (k : Nat) (s t : State), Sys2Proof.core.run k s = .next t →
    (∀ a, t.readMem a = s.readMem a) ∧ t.sp = s.sp ∧ t.stack = s.stack ∧ t.dt = s.dt ∧ t.st = s.st ∧
    t.config = s.config

/-- 20_memory.md R57: a load inside memory and before the first tick copies its bytes, changes no other byte and nothing but
memory; an empty one changes nothing. The memory it starts from is canonical, as every reachable one is, and so is the one it
leaves, so that several loads are the same statement again, a later byte overwriting an earlier one. The canonical form is
the model's representation of memory (log entry 19, DEDUCED). -/
def Obligations.LoadCopiesItsBytes : Prop :=
  ∀ (offset : Nat) (bytes : List Byte) (s : State), s.started = false → Memory.wf s.config s.mem →
    offset + bytes.length ≤ 4096 →
    ∃ t, loadPort offset bytes s = .next t ∧ t = { s with mem := t.mem } ∧ Memory.wf t.config t.mem ∧
      (∀ k, (hk : k < bytes.length) → t.readMem (offset + k) = bytes[k]) ∧
      (∀ a, (a < offset ∨ offset + bytes.length ≤ a) → t.readMem a = s.readMem a) ∧
      (bytes = [] → t = s)

/-- 20_memory.md R57, for the states a session reaches before its first tick: any two loads that end inside memory are applied
in the order they are issued, a later byte overwriting an earlier one; neither changes a register, a cell or a latch, an
empty one changes nothing, and PC is still 0x200. -/
def Obligations.LoadsApplyInOrder : Prop :=
  ∀ (offset offset' : Nat) (bytes bytes' : List Byte) (s : State), Reachable s → s.started = false →
    offset + bytes.length ≤ 4096 → offset' + bytes'.length ≤ 4096 →
    ∃ t u, loadPort offset bytes s = .next t ∧ loadPort offset' bytes' t = .next u ∧
      t = { s with mem := t.mem } ∧ u = { s with mem := u.mem } ∧ (bytes = [] → t = s) ∧
      (∀ k, (hk : k < bytes.length) → t.readMem (offset + k) = bytes[k]) ∧
      (∀ a, (a < offset ∨ offset + bytes.length ≤ a) → t.readMem a = s.readMem a) ∧
      (∀ k, (hk : k < bytes'.length) → u.readMem (offset' + k) = bytes'[k]) ∧
      (∀ a, (a < offset' ∨ offset' + bytes'.length ≤ a) → u.readMem a = t.readMem a) ∧
      u.pc = 0x200

/-- What the ports refuse, and nothing else (20_memory.md R58, R59, R68, 10_state.md R36, 70_reset_and_hazards.md R186): no
tick and no reset is refused, and no port answers a fault. What a load is refused for is the spec's own decision D8 (log
entry 11, with which of the two refusals is named first), and what a host may not do D23 (log entry 15). That every tick
answers a next state, and that no operation answers a fault, is log entry 1 (DEDUCED) with the spec's own decisions D5 and D6
(log entry 8). -/
def Obligations.PortsRefuseWhatTheSpecRefuses : Prop :=
  (∀ (op : HostOp) (s : State),
    (∃ t, op.apply s = .next t) ↔
      op = .reset ∨ op = .tick ∨
      ∃ offset bytes, op = .load offset bytes ∧ s.started = false ∧ offset + bytes.length ≤ 4096) ∧
  (∀ (op : HostOp) (s : State) (f : Fault), op.apply s ≠ .fault f) ∧
  (∀ (a : Nat) (s : State),
    (a ≤ 0xFFF → peekMem a s = .next (s.readMem a)) ∧
    (0xFFF < a → peekMem a s = .refused .peekOutOfRange))

/-- 20_memory.md R51: memory after reset, for every FONT; and the five bytes of glyph 0 that the source fixes (R54). -/
def Obligations.ResetMemoryIsZeroWithTheFont : Prop :=
  ∀ c : Config,
    (∀ a, a < 0x050 ∨ (0x09F < a ∧ a ≤ 0xFFF) → (State.resetOf c).readMem a = 0x00) ∧
    (∀ k, k < 80 → (State.resetOf c).readMem (0x050 + k) = fontByte c k) ∧
    (State.resetOf c).readMem 0x050 = 0xF0 ∧ (State.resetOf c).readMem 0x051 = 0x90 ∧
    (State.resetOf c).readMem 0x052 = 0x90 ∧ (State.resetOf c).readMem 0x053 = 0x90 ∧
    (State.resetOf c).readMem 0x054 = 0xF0

/-- The reset port, from any state, HALT = 1 included, leaves PC at 0x200, SP at 0 and every cell false (10_state.md R39,
70_reset_and_hazards.md R180); the zeros of V, I, STACK, DT and ST are decision D2 (log entry 2), the latches decisions D5, D6
and D8. It keeps the implementation's parameters (log entry 20). -/
def Obligations.ResetPortConstructsTheMachine : Prop :=
  ∀ s : State, ∃ t, HostOp.reset.apply s = .next t ∧
    t.pc = 0x200 ∧ t.sp = 0x00 ∧ (∀ x y, t.disp.cell x y = false) ∧
    (∀ a, t.readMem a = resetByte s.config a) ∧
    (∀ r, t.readV r = 0x00) ∧ t.i = 0x0000 ∧ (∀ j : Fin 16, t.stack[j] = 0x0000) ∧ t.dt = 0x00 ∧ t.st = 0x00 ∧
    t.halt = false ∧ t.fault = none ∧ t.started = false ∧
    (∀ r : Reg, t.written.v[r] = false) ∧ t.written.i = false ∧ t.config = s.config

/-- The latches STARTED, HALT and FAULT: the first tick sets STARTED, and nothing but reset clears one (10_state.md R32, R33,
R34, 60_exceptions.md R156): the spec's own decisions D5 and D6 (log entry 8) and D8 (log entry 11). -/
def Obligations.LatchesAreClearedOnlyByReset : Prop :=
  ∀ (op : HostOp) (s t : State), op ≠ .reset → op.apply s = .next t →
    (s.started = true → t.started = true) ∧
    (s.halt = true → t.halt = true ∧ t.fault = s.fault) ∧
    (op = .tick → s.halt = false → t.started = true)

/-- The boot sequence (70_reset_and_hazards.md R182): one instruction loaded at 0x200 after reset is what the first tick
runs, from the state reset and the load left. That a program is loaded from outside, and that the load is open until the
first tick, are log entries 16 (DEDUCED) and 11 (the spec's own decision D8). -/
def Obligations.FirstTickRunsTheLoadedInstruction : Prop :=
  ∀ (c : Config) (i : Instr), ∃ s, HostOp.apply (.load 0x200 (encodeBytes i)) (State.resetOf c) = .next s ∧
    s = { State.resetOf c with mem := s.mem } ∧
    HostOp.apply .tick s = exec i { s with started := true }

/-- The host's dump after a fault lists every byte pair in address order, high byte first, when DEBUG_DUMP is set, and the
host terminates otherwise (60_exceptions.md R157): the spec's own decisions D17 and D24 (log entry 18). -/
def Obligations.HostDumpsMemoryInOrder : Prop :=
  ∀ (s t : State) (r : FaultRecord), tickResult s t = .fault r →
    (t.config.debugDump = true → ∃ words, hostReaction s t = some (.dump words) ∧ words.length = 2048 ∧
      ∀ k, (hk : k < words.length) → words[k].1 = 2 * k ∧
        words[k].2.toNat = (t.readMem (2 * k)).toNat * 256 + (t.readMem (2 * k + 1)).toNat) ∧
    (t.config.debugDump = false → hostReaction s t = some .terminate)

/-- A memory in canonical form is determined by its bytes: equal reads mean equal data (log entry 19). -/
def Obligations.CanonicalMemoryIsDetermined : Prop :=
  ∀ (c : Config) (m m' : Memory), Memory.wf c m → Memory.wf c m' →
    (∀ a, a ≤ 0xFFF → Memory.read c m a = Memory.read c m' a) → m = m'

/-! ### Invariants -/

/-- The state after reset satisfies the invariant, for every value of the parameters. The zeros are decision D2 (log entry
2), SP, STACK, DT and ST are log entry 13, and the latches decisions D5, D6 and D8 (log entry 8). -/
def Obligations.ResetSatisfiesStateInv : Prop :=
  ∀ c : Config, StateInv (State.resetOf c)

/-- Every step keeps the invariant: the canonical memory, I <= 0xFFF (10_state.md R24), PC <= 0x1000 (R26), the constant SP,
STACK, DT and ST, the agreement of HALT with FAULT and of FAULT with the word at PC, and the WRITTEN bits' meaning. The bits
are decision D2 (log entry 5), the constant registers D13 and D14 (log entry 13), the latches D5 and D6 (log entry 8), and
that a fault is a next state is log entry 1 (DEDUCED). -/
def Obligations.StepKeepsStateInv : Prop :=
  ∀ s t : State, StateInv s → step s = .next t → StateInv t

/-- Every state a session of host operations reaches from reset satisfies the invariant: loads, ticks and resets in any
order. It rests on the choices that ResetSatisfiesStateInv and HostOperationsKeepStateInv name (log entries 1, 2, 5, 8, 11,
13, 20). -/
def Obligations.ReachableStatesSatisfyStateInv : Prop :=
  ∀ s : State, Reachable s → StateInv s

/-- Every host operation keeps the invariant, from every state that satisfies it: the tick, the load, which only an unstarted
core answers (20_memory.md R59; decision D8, log entry 11), and the reset, which keeps the parameters (log entry 20). The
operations a host may not do answer no state (10_state.md R36; decision D23, log entry 15). The step's own choices are those
of StepKeepsStateInv (log entries 1, 5, 8, 13), the reset's those of ResetSatisfiesStateInv. -/
def Obligations.HostOperationsKeepStateInv : Prop :=
  ∀ (op : HostOp) (s t : State), StateInv s → op.apply s = .next t → StateInv t
end

