-- ==== Sys2Proof/Laws/Decode.lean ====
section
/-! SUPPORT. Small facts of the encoding helpers: bytes and words, and that an instruction's source line always fits. -/

namespace Sys2Proof

/-- `{hi, lo}` is `hi * 256 + lo` (00_scope.md R10). -/
theorem joinBytes_toNat (hi lo : Byte) : (joinBytes hi lo).toNat = hi.toNat * 256 + lo.toNat := by
  have h : (joinBytes hi lo).toNat = hi.toNat <<< 8 ||| lo.toNat := BitVec.toNat_append hi lo
  rw [h, ← Nat.shiftLeft_add_eq_or_of_lt lo.isLt, Nat.shiftLeft_eq]

theorem highByte_toNat (w : Word) : (highByte w).toNat = w.toNat / 256 := by
  simp only [highByte, BitVec.extractLsb'_toNat, Nat.shiftRight_eq_div_pow]; omega

theorem lowByte_toNat (w : Word) : (lowByte w).toNat = w.toNat % 256 := by
  simp [lowByte, BitVec.extractLsb'_toNat]

@[simp] theorem joinBytes_high_low (w : Word) : joinBytes (highByte w) (lowByte w) = w := by
  apply BitVec.eq_of_toNat_eq
  rw [joinBytes_toNat, highByte_toNat, lowByte_toNat]; omega

@[simp] theorem highByte_joinBytes (hi lo : Byte) : highByte (joinBytes hi lo) = hi := by
  apply BitVec.eq_of_toNat_eq
  rw [highByte_toNat, joinBytes_toNat]; omega

@[simp] theorem lowByte_joinBytes (hi lo : Byte) : lowByte (joinBytes hi lo) = lo := by
  apply BitVec.eq_of_toNat_eq
  rw [lowByte_toNat, joinBytes_toNat]; omega

/-- The bytes of a word decode to what the word decodes to, and two bytes are consumed. -/
theorem decodeBytes_wordBytes (w : Word) (rest : List Byte) :
    decodeBytes (wordBytes w ++ rest) = (decode w).map (fun i => (i, rest)) := by
  simp only [wordBytes, List.cons_append, List.nil_append, decodeBytes, joinBytes_high_low]
  cases decode w <;> rfl

/-- An instruction's operands always fit their fields: the widths are in its type. -/
theorem Instr.wellFormed_all (i : Instr) : i.wellFormed = true := by
  cases i <;> simp [Instr.wellFormed, Instr.asmLine, AsmLine.wellFormed] <;> omega

/-- Inversion of the decoder: a word that decodes is 0x00E0 or a word of one of the five families. -/
theorem decode_ok_cases {w : Word} {i : Instr} (h : decode w = .ok i) :
    (w = 0x00E0 ∧ i = .cls) ∨
    ((fieldF w).toNat = 0x1 ∧ i = .jp (fieldNNN w)) ∨
    ((fieldF w).toNat = 0x6 ∧ i = .ldV (fieldX w) (fieldNN w)) ∨
    ((fieldF w).toNat = 0x7 ∧ i = .addV (fieldX w) (fieldNN w)) ∨
    ((fieldF w).toNat = 0xA ∧ i = .ldI (fieldNNN w)) ∨
    ((fieldF w).toNat = 0xD ∧ i = .drw (fieldX w) (fieldY w) (fieldN w)) := by
  unfold decode at h
  split at h
  · exact .inl ⟨‹_›, by simpa using h.symm⟩
  · split at h <;> simp_all

end Sys2Proof
end

