-- ==== Sys2Proof/Laws/Display.lean ====
section
/-! SUPPORT. What the framebuffer operations and the draw loops do, cell by cell: the later proofs cite these and do not
unfold a loop. -/

namespace Sys2Proof.Machine

/-! ### Cells -/

@[simp] theorem Display.cell_blank (x y : Nat) : Display.blank.cell x y = false := by
  simp [Display.cell, Display.blank]

/-- There is no pixel outside the grid. -/
theorem Display.cell_outside (d : Display) {x y : Nat} (h : ¬ (x < 64 ∧ y < 32)) : d.cell x y = false := by
  simp [Display.cell, h]

/-- Two framebuffers with equal cells are equal. -/
theorem Display.ext_cell {d e : Display} (h : ∀ x y, x < 64 → y < 32 → d.cell x y = e.cell x y) : d = e := by
  apply Vector.ext
  intro x hx
  apply Vector.ext
  intro y hy
  simpa [Display.cell, hx, hy] using h x y hx hy

/-- A toggle inside the grid inverts its cell and leaves every other. -/
theorem Display.cell_toggle (d : Display) {x y : Nat} (hx : x < 64) (hy : y < 32) (x' y' : Nat) :
    (d.toggle x y).cell x' y' = if x' = x ∧ y' = y then !d.cell x y else d.cell x' y' := by
  by_cases hin : x' < 64 ∧ y' < 32
  · obtain ⟨hx', hy'⟩ := hin
    simp only [Display.toggle, Display.cell, hx, hy, hx', hy', and_self, dite_true]
    by_cases ex : x' = x
    · subst x'
      by_cases ey : y' = y
      · subst y'; simp
      · simp [ey, Ne.symm ey]
    · simp [ex, Ne.symm ex]
  · rw [Display.cell_outside _ hin, Display.cell_outside _ hin, if_neg (by omega)]

/-! ### The column loop -/

/-- Which cells the columns `k, .., k + left - 1` of a row toggle. -/
def inColumns (x0 left k x : Nat) : Bool := decide (x0 + k ≤ x ∧ x < x0 + k + left ∧ x < 64)

/-- The column loop inverts the row's cells under the set bits of the byte. -/
theorem drawColumns_cell (b : Byte) {x0 y : Nat} (hy : y < 32) (left k : Nat) (d : Drawing) (x' y' : Nat) :
    (drawColumns b x0 y left k d).disp.cell x' y' =
      (d.disp.cell x' y' ^^ (decide (y' = y) && inColumns x0 left k x' && spriteColumn b (x' - x0))) := by
  induction left generalizing k d with
  | zero =>
    have : inColumns x0 0 k x' = false := by simp [inColumns]; omega
    simp [drawColumns, this]
  | succ left ih =>
    simp only [drawColumns]
    split
    · have : inColumns x0 (left + 1) k x' = false := by simp [inColumns]; omega
      simp [this]
    · rw [ih]
      by_cases hhere : x' = x0 + k ∧ y' = y
      · obtain ⟨rfl, rfl⟩ := hhere
        have h1 : inColumns x0 left (k + 1) (x0 + k) = false := by simp [inColumns]
        have h2 : inColumns x0 (left + 1) k (x0 + k) = true := by simp [inColumns]; omega
        cases hb : spriteColumn b k <;>
          simp [h1, h2, hb, Drawing.toggle, Display.cell_toggle _ (show x0 + k < 64 by omega) hy]
      · have h3 : (decide (y' = y) && inColumns x0 left (k + 1) x') =
            (decide (y' = y) && inColumns x0 (left + 1) k x') := by
          by_cases hyy : y' = y
          · simp only [hyy, inColumns]; congr 1; simp only [decide_eq_decide]; omega
          · simp [hyy]
        rw [h3]
        cases hb : spriteColumn b k
        · simp
        · simp [Drawing.toggle, Display.cell_toggle _ (show x0 + k < 64 by omega) hy, hhere]

/-- The column loop reports a collision when one was already there, or a set bit meets a lit cell of the row. -/
theorem drawColumns_collided (b : Byte) {x0 y : Nat} (hy : y < 32) (left k : Nat) (d : Drawing) :
    (drawColumns b x0 y left k d).collided = true ↔
      d.collided = true ∨ ∃ x', inColumns x0 left k x' = true ∧ spriteColumn b (x' - x0) = true ∧
        d.disp.cell x' y = true := by
  induction left generalizing k d with
  | zero =>
    have : ∀ x', inColumns x0 0 k x' = false := by intro x'; simp [inColumns]; omega
    simp [drawColumns, this]
  | succ left ih =>
    simp only [drawColumns]
    split
    · have : ∀ x', inColumns x0 (left + 1) k x' = false := by intro x'; simp [inColumns]; omega
      simp [this]
    · rw [ih]
      have hsplit : ∀ x', inColumns x0 (left + 1) k x' = true ↔
          x' = x0 + k ∨ inColumns x0 left (k + 1) x' = true := by
        intro x'; simp only [inColumns, decide_eq_true_eq]; omega
      have hne : ∀ x', inColumns x0 left (k + 1) x' = true → x' ≠ x0 + k := by
        intro x'; simp only [inColumns, decide_eq_true_eq]; omega
      cases hb : spriteColumn b k
      · constructor
        · rintro (h | ⟨x', h1, h2, h3⟩)
          · exact .inl h
          · exact .inr ⟨x', (hsplit x').2 (.inr h1), h2, h3⟩
        · rintro (h | ⟨x', h1, h2, h3⟩)
          · exact .inl h
          · rcases (hsplit x').1 h1 with rfl | h1
            · simp [hb] at h2
            · exact .inr ⟨x', h1, h2, h3⟩
      · simp only [if_true, Drawing.toggle, Display.cell_toggle _ (show x0 + k < 64 by omega) hy, and_self,
          Bool.not_not, Bool.or_eq_true]
        constructor
        · rintro ((h | h) | ⟨x', h1, h2, h3⟩)
          · exact .inl h
          · exact .inr ⟨x0 + k, (hsplit _).2 (.inl rfl), by simpa using hb, h⟩
          · exact .inr ⟨x', (hsplit x').2 (.inr h1), h2, by simpa [hne x' h1] using h3⟩
        · rintro (h | ⟨x', h1, h2, h3⟩)
          · exact .inl (.inl h)
          · rcases (hsplit x').1 h1 with rfl | h1
            · exact .inl (.inr h3)
            · exact .inr ⟨x', h1, h2, by simpa [hne x' h1] using h3⟩

/-! ### The row loop -/

/-- Which rows the rows `n, .., n + left - 1` of a sprite draw. -/
def inRows (y0 left n y : Nat) : Bool := decide (y0 + n ≤ y ∧ y < y0 + n + left ∧ y < 32)

/-- The clipped sprite's bit at a cell, for the rows `n, .., n + left - 1`: row y reads the byte at I + (y - y0), column x
its bit 7 - (x - x0). -/
def spriteBit (s : State) (x0 y0 left n x y : Nat) : Bool :=
  inRows y0 left n y && inColumns x0 8 0 x && spriteColumn (s.readMem (spriteAddress s.i (y - y0))) (x - x0)

/-- No bit of a sprite without rows is set. -/
theorem spriteBit_zero (s : State) (x0 y0 n x y : Nat) : spriteBit s x0 y0 0 n x y = false := by
  simp [spriteBit, inRows]; omega

/-- Past the bottom edge no bit of the sprite is set. -/
theorem spriteBit_below (s : State) {x0 y0 left n : Nat} (h : 31 < y0 + n) (x y : Nat) :
    spriteBit s x0 y0 left n x y = false := by
  have : inRows y0 left n y = false := by simp [inRows]; omega
  simp [spriteBit, this]

/-- The first row's bits, and those of the rows after it. -/
theorem spriteBit_succ (s : State) {x0 y0 left n : Nat} (h : ¬ 31 < y0 + n) (x y : Nat) :
    spriteBit s x0 y0 (left + 1) n x y =
      if y = y0 + n then inColumns x0 8 0 x && spriteColumn (s.readMem (spriteAddress s.i n)) (x - x0)
      else spriteBit s x0 y0 left (n + 1) x y := by
  split
  · subst y
    have : inRows y0 (left + 1) n (y0 + n) = true := by simp [inRows]; omega
    simp [spriteBit, this]
  · have : inRows y0 (left + 1) n y = inRows y0 left (n + 1) y := by
      simp only [inRows, decide_eq_decide]; omega
    simp [spriteBit, this]

/-- The first row is not one of the rows after it. -/
theorem spriteBit_next_row (s : State) (x0 y0 left n x : Nat) :
    spriteBit s x0 y0 left (n + 1) x (y0 + n) = false := by
  have : inRows y0 left (n + 1) (y0 + n) = false := by simp [inRows]
  simp [spriteBit, this]

/-- The row loop inverts exactly the cells under the set bits of the clipped sprite. -/
theorem drawRows_cell (s : State) (x0 y0 left n : Nat) (d : Drawing) (x y : Nat) :
    (drawRows s x0 y0 left n d).disp.cell x y = (d.disp.cell x y ^^ spriteBit s x0 y0 left n x y) := by
  induction left generalizing n d with
  | zero => simp [drawRows, spriteBit_zero]
  | succ left ih =>
    simp only [drawRows]
    split
    · simp [spriteBit_below s ‹_›]
    · rw [ih, drawColumns_cell _ (by omega), spriteBit_succ s ‹_›]
      by_cases hy : y = y0 + n
      · subst y; simp [spriteBit_next_row]
      · simp [hy]

/-- The row loop reports a collision when one was already there, or a set bit of the clipped sprite meets a lit cell. -/
theorem drawRows_collided (s : State) (x0 y0 left n : Nat) (d : Drawing) :
    (drawRows s x0 y0 left n d).collided = true ↔
      d.collided = true ∨ ∃ x y, spriteBit s x0 y0 left n x y = true ∧ d.disp.cell x y = true := by
  induction left generalizing n d with
  | zero => simp [drawRows, spriteBit_zero]
  | succ left ih =>
    simp only [drawRows]
    split
    · simp [spriteBit_below s ‹_›]
    · rw [ih, drawColumns_collided _ (by omega)]
      simp only [spriteBit_succ s ‹_›, drawColumns_cell _ (show y0 + n < 32 by omega)]
      constructor
      · rintro ((h | ⟨x, h1, h2, h3⟩) | ⟨x, y, h1, h2⟩)
        · exact .inl h
        · exact .inr ⟨x, y0 + n, by simp [h1, h2], h3⟩
        · have hy : y ≠ y0 + n := by rintro rfl; simp [spriteBit_next_row] at h1
          exact .inr ⟨x, y, by simp [hy, h1], by simpa [hy] using h2⟩
      · rintro (h | ⟨x, y, h1, h2⟩)
        · exact .inl (.inl h)
        · by_cases hy : y = y0 + n
          · subst y
            simp only [if_true, Bool.and_eq_true] at h1
            exact .inl (.inr ⟨x, h1.1, h1.2, h2⟩)
          · exact .inr ⟨x, y, by simpa [hy] using h1, by simpa [hy] using h2⟩

end Sys2Proof.Machine
end

