-- ==== Sys2Proof/Laws/Memory.lean ====
section
/-! SUPPORT. What each memory operation does: a read after a write, the write cursor of a load, and the canonical form,
which every operation keeps. -/

namespace Sys2Proof.Machine

/-! ### The canonical form -/

theorem Memory.wf_nil (c : Config) : Memory.wf c [] := by simp [Memory.wf]

/-- A listed memory is canonical when its rest is, its first entry is legal and lies below the rest. -/
theorem Memory.wf_cons (c : Config) (a : Nat) (x : Byte) (m : Memory) :
    Memory.wf c ((a, x) :: m) ↔
      (∀ p ∈ m, a < p.1) ∧ a < memSize ∧ x ≠ resetByte c a ∧ Memory.wf c m := by
  simp only [Memory.wf, List.pairwise_cons, List.forall_mem_cons]
  tauto

/-- Every entry of a written memory is the written one or was there. -/
theorem Memory.mem_write {c : Config} {m : Memory} {a : Nat} {x : Byte} {p : Host.Cell}
    (h : p ∈ Memory.write c m a x) : p = (a, x) ∨ p ∈ m := by
  induction m with
  | nil => grind [Memory.write, Memory.cons]
  | cons q rest ih => obtain ⟨b, y⟩ := q; grind [Memory.write, Memory.cons]

/-- A write inside memory keeps the canonical form. -/
theorem Memory.wf_write {c : Config} {m : Memory} (hm : Memory.wf c m) {a : Nat} (ha : a < memSize) (x : Byte) :
    Memory.wf c (Memory.write c m a x) := by
  induction m with
  | nil => by_cases hx : x = resetByte c a <;> simp [Memory.write, Memory.cons, hx, Memory.wf, ha]
  | cons q rest ih =>
    obtain ⟨b, y⟩ := q
    obtain ⟨hlow, hb, hy, hrest⟩ := (Memory.wf_cons c b y rest).1 hm
    simp only [Memory.write, Memory.cons]
    split
    · split
      · exact hm
      · exact (Memory.wf_cons ..).2 ⟨by grind, ha, by assumption, hm⟩
    · split
      · subst a
        split
        · exact hrest
        · exact (Memory.wf_cons ..).2 ⟨hlow, ha, by assumption, hrest⟩
      · refine (Memory.wf_cons ..).2 ⟨fun p hp => ?_, hb, hy, ih hrest⟩
        rcases Memory.mem_write hp with rfl | hp
        · simp only; omega
        · exact hlow p hp

/-! ### Reads -/

/-- Below every entry a memory reads as after reset. -/
theorem Memory.read_below {c : Config} {m : Memory} {a : Nat} (h : ∀ p ∈ m, a < p.1) :
    Memory.read c m a = resetByte c a := by
  induction m with
  | nil => rfl
  | cons q rest ih =>
    obtain ⟨b, y⟩ := q
    have hb := h (b, y) (by simp)
    rw [Memory.read, if_neg (by simp only at hb; omega)]
    exact ih fun p hp => h p (by simp [hp])

/-- A read after a write: the byte written at its address, what was there everywhere else. -/
theorem Memory.read_write {c : Config} {m : Memory} (hm : Memory.wf c m) (a b : Nat) (x : Byte) :
    Memory.read c (Memory.write c m a x) b = if b = a then x else Memory.read c m b := by
  induction m with
  | nil => grind [Memory.write, Memory.cons, Memory.read]
  | cons q rest ih =>
    obtain ⟨d, y⟩ := q
    obtain ⟨hlow, -, -, hrest⟩ := (Memory.wf_cons c d y rest).1 hm
    have hread : Memory.read c rest d = resetByte c d := Memory.read_below hlow
    have hbelow : a < d → Memory.read c rest a = resetByte c a := fun h =>
      Memory.read_below fun p hp => h.trans (hlow p hp)
    have := ih hrest
    grind [Memory.write, Memory.cons, Memory.read]

/-! ### The write cursor -/

/-- The cursor keeps the canonical form as long as it stays inside memory. -/
theorem Memory.wf_writeBytes {c : Config} {m : Memory} (hm : Memory.wf c m) {a : Nat} {bytes : List Byte}
    (h : a + bytes.length ≤ memSize) : Memory.wf c (Memory.writeBytes c m a bytes) := by
  induction bytes generalizing m a with
  | nil => exact hm
  | cons x xs ih =>
    simp only [List.length_cons] at h
    exact ih (Memory.wf_write hm (by omega) x) (by omega)

/-- A read after the cursor has passed: the loaded byte inside the loaded range, what was there outside it. -/
theorem Memory.read_writeBytes {c : Config} {m : Memory} (hm : Memory.wf c m) {a : Nat} {bytes : List Byte}
    (h : a + bytes.length ≤ memSize) (b : Nat) :
    Memory.read c (Memory.writeBytes c m a bytes) b =
      if hb : a ≤ b ∧ b - a < bytes.length then bytes[b - a]'hb.2 else Memory.read c m b := by
  induction bytes generalizing m a with
  | nil => simp [Memory.writeBytes]
  | cons x xs ih =>
    simp only [List.length_cons] at h ⊢
    rw [Memory.writeBytes, ih (Memory.wf_write hm (by omega) x) (by omega), Memory.read_write hm]
    by_cases hab : a + 1 ≤ b
    · obtain ⟨k, rfl⟩ : ∃ k, b = a + 1 + k := ⟨b - (a + 1), by omega⟩
      have e : a + 1 + k - a = k + 1 := by omega
      simp only [e, List.getElem_cons_succ, Nat.add_sub_cancel_left]
      by_cases hk : k < xs.length
      · rw [dif_pos ⟨by omega, hk⟩, dif_pos ⟨by omega, by omega⟩]
      · rw [dif_neg (by omega), dif_neg (by omega), if_neg (by omega)]
    · by_cases hb : b = a
      · subst b; simp
      · rw [dif_neg (by omega), dif_neg (by omega), if_neg hb]

end Sys2Proof.Machine
end

