-- ==== Sys2Proof/Laws/Operands.lean ====
section
/-! SUPPORT. What each operand form computes, as numbers, and when a register may be read. -/

namespace Sys2Proof.Machine

@[simp] theorem zext16_toNat (nnn : Addr12) : (zext16 nnn).toNat = nnn.toNat := by
  have := nnn.isLt
  simp only [zext16, BitVec.toNat_setWidth]; omega

@[simp] theorem addByte_toNat (a b : Byte) : (addByte a b).toNat = (a.toNat + b.toNat) % 256 := by
  simp [addByte]

theorem startColumn_lt (vx : Byte) : startColumn vx < 64 := Nat.mod_lt _ (by omega)

theorem startRow_lt (vy : Byte) : startRow vy < 32 := Nat.mod_lt _ (by omega)

/-- The range check of 43_display.md R133. -/
theorem spriteOutOfRange_iff (i : Word) (n : RowCount) :
    spriteOutOfRange i n = true ↔ 1 ≤ n.val ∧ 0xFFF < i.toNat + (n.val - 1) := by
  rw [spriteOutOfRange, decide_eq_true_eq, spriteAddress]

/-- A sprite inside memory reads only addresses of memory. -/
theorem spriteAddress_lt {i : Word} {n : RowCount} (h : spriteOutOfRange i n = false) {row : Nat} (hrow : row < n.val) :
    spriteAddress i row ≤ 0xFFF := by
  rw [← Bool.not_eq_true, spriteOutOfRange_iff] at h
  simp only [spriteAddress]; omega

/-- V[x] may be read in the default model, and in the strict model once it is written (60_exceptions.md R165). -/
theorem State.readableV_iff (s : State) (x : Reg) :
    s.readableV x = true ↔ (s.config.strictUnwritten = true → s.written.v[x] = true) := by
  simp only [State.readableV]; cases s.config.strictUnwritten <;> simp

/-- I may be read likewise. -/
theorem State.readableI_iff (s : State) :
    s.readableI = true ↔ (s.config.strictUnwritten = true → s.written.i = true) := by
  simp only [State.readableI]; cases s.config.strictUnwritten <;> simp

end Sys2Proof.Machine
end

