-- ==== Sys2Proof/Laws/State.lean ====
section
/-! SUPPORT. What each named update leaves in each field of State, one lemma per field per update, so that no later proof
unfolds a record update; and how the readers look through the updates. -/

namespace Sys2Proof.Machine.State

variable (s : State)

/-! ### `start` -/

@[simp] theorem start_config : (s.start).config = s.config := rfl
@[simp] theorem start_v : (s.start).v = s.v := rfl
@[simp] theorem start_i : (s.start).i = s.i := rfl
@[simp] theorem start_pc : (s.start).pc = s.pc := rfl
@[simp] theorem start_sp : (s.start).sp = s.sp := rfl
@[simp] theorem start_stack : (s.start).stack = s.stack := rfl
@[simp] theorem start_dt : (s.start).dt = s.dt := rfl
@[simp] theorem start_st : (s.start).st = s.st := rfl
@[simp] theorem start_disp : (s.start).disp = s.disp := rfl
@[simp] theorem start_mem : (s.start).mem = s.mem := rfl
@[simp] theorem start_halt : (s.start).halt = s.halt := rfl
@[simp] theorem start_fault : (s.start).fault = s.fault := rfl
@[simp] theorem start_started : (s.start).started = true := rfl
@[simp] theorem start_written : (s.start).written = s.written := rfl

/-! ### `advance` -/

@[simp] theorem advance_config : (s.advance).config = s.config := rfl
@[simp] theorem advance_v : (s.advance).v = s.v := rfl
@[simp] theorem advance_i : (s.advance).i = s.i := rfl
@[simp] theorem advance_pc : (s.advance).pc = s.pc + 2 := rfl
@[simp] theorem advance_sp : (s.advance).sp = s.sp := rfl
@[simp] theorem advance_stack : (s.advance).stack = s.stack := rfl
@[simp] theorem advance_dt : (s.advance).dt = s.dt := rfl
@[simp] theorem advance_st : (s.advance).st = s.st := rfl
@[simp] theorem advance_disp : (s.advance).disp = s.disp := rfl
@[simp] theorem advance_mem : (s.advance).mem = s.mem := rfl
@[simp] theorem advance_halt : (s.advance).halt = s.halt := rfl
@[simp] theorem advance_fault : (s.advance).fault = s.fault := rfl
@[simp] theorem advance_started : (s.advance).started = s.started := rfl
@[simp] theorem advance_written : (s.advance).written = s.written := rfl

/-! ### `jump` -/

@[simp] theorem jump_config (target : Word) : (s.jump target).config = s.config := rfl
@[simp] theorem jump_v (target : Word) : (s.jump target).v = s.v := rfl
@[simp] theorem jump_i (target : Word) : (s.jump target).i = s.i := rfl
@[simp] theorem jump_pc (target : Word) : (s.jump target).pc = target := rfl
@[simp] theorem jump_sp (target : Word) : (s.jump target).sp = s.sp := rfl
@[simp] theorem jump_stack (target : Word) : (s.jump target).stack = s.stack := rfl
@[simp] theorem jump_dt (target : Word) : (s.jump target).dt = s.dt := rfl
@[simp] theorem jump_st (target : Word) : (s.jump target).st = s.st := rfl
@[simp] theorem jump_disp (target : Word) : (s.jump target).disp = s.disp := rfl
@[simp] theorem jump_mem (target : Word) : (s.jump target).mem = s.mem := rfl
@[simp] theorem jump_halt (target : Word) : (s.jump target).halt = s.halt := rfl
@[simp] theorem jump_fault (target : Word) : (s.jump target).fault = s.fault := rfl
@[simp] theorem jump_started (target : Word) : (s.jump target).started = s.started := rfl
@[simp] theorem jump_written (target : Word) : (s.jump target).written = s.written := rfl

/-! ### `setDisp` -/

@[simp] theorem setDisp_config (d : Display) : (s.setDisp d).config = s.config := rfl
@[simp] theorem setDisp_v (d : Display) : (s.setDisp d).v = s.v := rfl
@[simp] theorem setDisp_i (d : Display) : (s.setDisp d).i = s.i := rfl
@[simp] theorem setDisp_pc (d : Display) : (s.setDisp d).pc = s.pc := rfl
@[simp] theorem setDisp_sp (d : Display) : (s.setDisp d).sp = s.sp := rfl
@[simp] theorem setDisp_stack (d : Display) : (s.setDisp d).stack = s.stack := rfl
@[simp] theorem setDisp_dt (d : Display) : (s.setDisp d).dt = s.dt := rfl
@[simp] theorem setDisp_st (d : Display) : (s.setDisp d).st = s.st := rfl
@[simp] theorem setDisp_disp (d : Display) : (s.setDisp d).disp = d := rfl
@[simp] theorem setDisp_mem (d : Display) : (s.setDisp d).mem = s.mem := rfl
@[simp] theorem setDisp_halt (d : Display) : (s.setDisp d).halt = s.halt := rfl
@[simp] theorem setDisp_fault (d : Display) : (s.setDisp d).fault = s.fault := rfl
@[simp] theorem setDisp_started (d : Display) : (s.setDisp d).started = s.started := rfl
@[simp] theorem setDisp_written (d : Display) : (s.setDisp d).written = s.written := rfl

/-! ### `writeV` -/

@[simp] theorem writeV_config (x : Reg) (b : Byte) : (s.writeV x b).config = s.config := rfl
@[simp] theorem writeV_v (x : Reg) (b : Byte) : (s.writeV x b).v = s.v.set x b := rfl
@[simp] theorem writeV_i (x : Reg) (b : Byte) : (s.writeV x b).i = s.i := rfl
@[simp] theorem writeV_pc (x : Reg) (b : Byte) : (s.writeV x b).pc = s.pc := rfl
@[simp] theorem writeV_sp (x : Reg) (b : Byte) : (s.writeV x b).sp = s.sp := rfl
@[simp] theorem writeV_stack (x : Reg) (b : Byte) : (s.writeV x b).stack = s.stack := rfl
@[simp] theorem writeV_dt (x : Reg) (b : Byte) : (s.writeV x b).dt = s.dt := rfl
@[simp] theorem writeV_st (x : Reg) (b : Byte) : (s.writeV x b).st = s.st := rfl
@[simp] theorem writeV_disp (x : Reg) (b : Byte) : (s.writeV x b).disp = s.disp := rfl
@[simp] theorem writeV_mem (x : Reg) (b : Byte) : (s.writeV x b).mem = s.mem := rfl
@[simp] theorem writeV_halt (x : Reg) (b : Byte) : (s.writeV x b).halt = s.halt := rfl
@[simp] theorem writeV_fault (x : Reg) (b : Byte) : (s.writeV x b).fault = s.fault := rfl
@[simp] theorem writeV_started (x : Reg) (b : Byte) : (s.writeV x b).started = s.started := rfl
@[simp] theorem writeV_written (x : Reg) (b : Byte) : (s.writeV x b).written = s.markV x := rfl

/-! ### `writeI` -/

@[simp] theorem writeI_config (w : Word) : (s.writeI w).config = s.config := rfl
@[simp] theorem writeI_v (w : Word) : (s.writeI w).v = s.v := rfl
@[simp] theorem writeI_i (w : Word) : (s.writeI w).i = w := rfl
@[simp] theorem writeI_pc (w : Word) : (s.writeI w).pc = s.pc := rfl
@[simp] theorem writeI_sp (w : Word) : (s.writeI w).sp = s.sp := rfl
@[simp] theorem writeI_stack (w : Word) : (s.writeI w).stack = s.stack := rfl
@[simp] theorem writeI_dt (w : Word) : (s.writeI w).dt = s.dt := rfl
@[simp] theorem writeI_st (w : Word) : (s.writeI w).st = s.st := rfl
@[simp] theorem writeI_disp (w : Word) : (s.writeI w).disp = s.disp := rfl
@[simp] theorem writeI_mem (w : Word) : (s.writeI w).mem = s.mem := rfl
@[simp] theorem writeI_halt (w : Word) : (s.writeI w).halt = s.halt := rfl
@[simp] theorem writeI_fault (w : Word) : (s.writeI w).fault = s.fault := rfl
@[simp] theorem writeI_started (w : Word) : (s.writeI w).started = s.started := rfl
@[simp] theorem writeI_written (w : Word) : (s.writeI w).written = s.markI := rfl

/-! ### `writeMem` -/

@[simp] theorem writeMem_config (a : Nat) (bytes : List Byte) : (s.writeMem a bytes).config = s.config := rfl
@[simp] theorem writeMem_v (a : Nat) (bytes : List Byte) : (s.writeMem a bytes).v = s.v := rfl
@[simp] theorem writeMem_i (a : Nat) (bytes : List Byte) : (s.writeMem a bytes).i = s.i := rfl
@[simp] theorem writeMem_pc (a : Nat) (bytes : List Byte) : (s.writeMem a bytes).pc = s.pc := rfl
@[simp] theorem writeMem_sp (a : Nat) (bytes : List Byte) : (s.writeMem a bytes).sp = s.sp := rfl
@[simp] theorem writeMem_stack (a : Nat) (bytes : List Byte) : (s.writeMem a bytes).stack = s.stack := rfl
@[simp] theorem writeMem_dt (a : Nat) (bytes : List Byte) : (s.writeMem a bytes).dt = s.dt := rfl
@[simp] theorem writeMem_st (a : Nat) (bytes : List Byte) : (s.writeMem a bytes).st = s.st := rfl
@[simp] theorem writeMem_disp (a : Nat) (bytes : List Byte) : (s.writeMem a bytes).disp = s.disp := rfl
@[simp] theorem writeMem_mem (a : Nat) (bytes : List Byte) :
    (s.writeMem a bytes).mem = Memory.writeBytes s.config s.mem a bytes := rfl
@[simp] theorem writeMem_halt (a : Nat) (bytes : List Byte) : (s.writeMem a bytes).halt = s.halt := rfl
@[simp] theorem writeMem_fault (a : Nat) (bytes : List Byte) : (s.writeMem a bytes).fault = s.fault := rfl
@[simp] theorem writeMem_started (a : Nat) (bytes : List Byte) : (s.writeMem a bytes).started = s.started := rfl
@[simp] theorem writeMem_written (a : Nat) (bytes : List Byte) : (s.writeMem a bytes).written = s.written := rfl

/-! ### `raise` -/

@[simp] theorem raise_config (f : Fault) (word : Option Word) : (s.raise f word).config = s.config := rfl
@[simp] theorem raise_v (f : Fault) (word : Option Word) : (s.raise f word).v = s.v := rfl
@[simp] theorem raise_i (f : Fault) (word : Option Word) : (s.raise f word).i = s.i := rfl
@[simp] theorem raise_pc (f : Fault) (word : Option Word) : (s.raise f word).pc = s.pc := rfl
@[simp] theorem raise_sp (f : Fault) (word : Option Word) : (s.raise f word).sp = s.sp := rfl
@[simp] theorem raise_stack (f : Fault) (word : Option Word) : (s.raise f word).stack = s.stack := rfl
@[simp] theorem raise_dt (f : Fault) (word : Option Word) : (s.raise f word).dt = s.dt := rfl
@[simp] theorem raise_st (f : Fault) (word : Option Word) : (s.raise f word).st = s.st := rfl
@[simp] theorem raise_disp (f : Fault) (word : Option Word) : (s.raise f word).disp = s.disp := rfl
@[simp] theorem raise_mem (f : Fault) (word : Option Word) : (s.raise f word).mem = s.mem := rfl
@[simp] theorem raise_halt (f : Fault) (word : Option Word) : (s.raise f word).halt = true := rfl
@[simp] theorem raise_fault (f : Fault) (word : Option Word) :
    (s.raise f word).fault = some { fault := f, word := word, pc := s.pc } := rfl
@[simp] theorem raise_started (f : Fault) (word : Option Word) : (s.raise f word).started = true := rfl
@[simp] theorem raise_written (f : Fault) (word : Option Word) : (s.raise f word).written = s.written := rfl

/-! ### Readers through updates -/

@[simp] theorem start_readMem (addr : Nat) :
    (s.start).readMem addr = s.readMem addr := rfl
@[simp] theorem start_readV (r : Reg) :
    (s.start).readV r = s.readV r := rfl
@[simp] theorem start_readableV (r : Reg) :
    (s.start).readableV r = s.readableV r := rfl
@[simp] theorem start_readableI :
    (s.start).readableI = s.readableI := rfl
@[simp] theorem advance_readMem (addr : Nat) :
    (s.advance).readMem addr = s.readMem addr := rfl
@[simp] theorem advance_readV (r : Reg) :
    (s.advance).readV r = s.readV r := rfl
@[simp] theorem advance_readableV (r : Reg) :
    (s.advance).readableV r = s.readableV r := rfl
@[simp] theorem advance_readableI :
    (s.advance).readableI = s.readableI := rfl
@[simp] theorem jump_readMem (target : Word) (addr : Nat) :
    (s.jump target).readMem addr = s.readMem addr := rfl
@[simp] theorem jump_readV (target : Word) (r : Reg) :
    (s.jump target).readV r = s.readV r := rfl
@[simp] theorem jump_readableV (target : Word) (r : Reg) :
    (s.jump target).readableV r = s.readableV r := rfl
@[simp] theorem jump_readableI (target : Word) :
    (s.jump target).readableI = s.readableI := rfl
@[simp] theorem setDisp_readMem (d : Display) (addr : Nat) :
    (s.setDisp d).readMem addr = s.readMem addr := rfl
@[simp] theorem setDisp_readV (d : Display) (r : Reg) :
    (s.setDisp d).readV r = s.readV r := rfl
@[simp] theorem setDisp_readableV (d : Display) (r : Reg) :
    (s.setDisp d).readableV r = s.readableV r := rfl
@[simp] theorem setDisp_readableI (d : Display) :
    (s.setDisp d).readableI = s.readableI := rfl
@[simp] theorem writeV_readMem (x : Reg) (b : Byte) (addr : Nat) :
    (s.writeV x b).readMem addr = s.readMem addr := rfl
@[simp] theorem writeI_readMem (w : Word) (addr : Nat) :
    (s.writeI w).readMem addr = s.readMem addr := rfl
@[simp] theorem writeI_readV (w : Word) (r : Reg) :
    (s.writeI w).readV r = s.readV r := rfl
@[simp] theorem writeMem_readV (a : Nat) (bytes : List Byte) (r : Reg) :
    (s.writeMem a bytes).readV r = s.readV r := rfl
@[simp] theorem writeMem_readableV (a : Nat) (bytes : List Byte) (r : Reg) :
    (s.writeMem a bytes).readableV r = s.readableV r := rfl
@[simp] theorem writeMem_readableI (a : Nat) (bytes : List Byte) :
    (s.writeMem a bytes).readableI = s.readableI := rfl
@[simp] theorem raise_readMem (f : Fault) (word : Option Word) (addr : Nat) :
    (s.raise f word).readMem addr = s.readMem addr := rfl
@[simp] theorem raise_readV (f : Fault) (word : Option Word) (r : Reg) :
    (s.raise f word).readV r = s.readV r := rfl
@[simp] theorem raise_readableV (f : Fault) (word : Option Word) (r : Reg) :
    (s.raise f word).readableV r = s.readableV r := rfl
@[simp] theorem raise_readableI (f : Fault) (word : Option Word) :
    (s.raise f word).readableI = s.readableI := rfl

@[simp] theorem start_fetch : s.start.fetch = s.fetch := rfl
@[simp] theorem setDisp_fetch (d : Display) : (s.setDisp d).fetch = s.fetch := rfl
@[simp] theorem writeV_fetch (x : Reg) (b : Byte) : (s.writeV x b).fetch = s.fetch := rfl
@[simp] theorem writeI_fetch (w : Word) : (s.writeI w).fetch = s.fetch := rfl
@[simp] theorem raise_fetch (f : Fault) (word : Option Word) : (s.raise f word).fetch = s.fetch := rfl

/-- The value a register holds after a write of a register. -/
theorem readV_writeV (x r : Reg) (b : Byte) :
    (s.writeV x b).readV r = if r = x then b else s.readV r := by
  simp only [readV, writeV_v, Fin.getElem_fin, Vector.getElem_set, Fin.ext_iff, eq_comm]

@[simp] theorem readV_writeV_self (x : Reg) (b : Byte) : (s.writeV x b).readV x = b := by
  simp [readV_writeV]

/-- A written register is readable afterwards, and no other changes. -/
theorem readableV_writeV (x r : Reg) (b : Byte) :
    (s.writeV x b).readableV r = (s.readableV r || decide (r = x)) := by
  cases h : s.config.strictUnwritten <;>
    simp [readableV, markV, h, Vector.getElem_set, Fin.ext_iff, eq_comm (a := x.val), Bool.or_comm]

/-- A write of V[x] marks no other register in the strict model, and none at all in the default model. -/
theorem markV_of_ne {x r : Reg} (h : r ≠ x) : (s.markV x).v[r] = s.written.v[r] := by
  simp only [markV]
  split
  · simp only [Fin.getElem_fin, Vector.getElem_set]
    exact if_neg fun e => h (Fin.ext e.symm)
  · rfl

@[simp] theorem markV_i (x : Reg) : (s.markV x).i = s.written.i := by
  simp only [markV]; split <;> rfl

@[simp] theorem markI_v : s.markI.v = s.written.v := by
  simp only [markI]; split <;> rfl

/-- In the default model WRITTEN does not move. -/
theorem markV_default (h : s.config.strictUnwritten = false) (x : Reg) : s.markV x = s.written := by
  simp [markV, h]

theorem markI_default (h : s.config.strictUnwritten = false) : s.markI = s.written := by
  simp [markI, h]

@[simp] theorem readableI_writeV (x : Reg) (b : Byte) : (s.writeV x b).readableI = s.readableI := by
  simp [readableI]

/-- A written I is readable afterwards. -/
@[simp] theorem readableI_writeI (w : Word) : (s.writeI w).readableI = true := by
  cases h : s.config.strictUnwritten <;> simp [readableI, markI, h]

/-- A core that is already started is left as it is. -/
theorem start_of_started (h : s.started = true) : s.start = s := by
  cases s; simp_all [start]

end Sys2Proof.Machine.State
end

