-- ==== Sys2Proof/Laws/Ops.lean ====
section
/-! SUPPORT. What the shared operations answer: the fetch, dispatch and a tick, one inversion lemma each. -/

namespace Sys2Proof.Machine

open State

/-- The fetch answers exactly when both bytes lie inside memory (40_engine.md R91). -/
theorem State.fetch_isSome (s : State) : s.fetch.isSome = true ↔ s.pc.toNat ≤ 0xFFE := by
  simp only [State.fetch]; split <;> simp <;> omega

/-- A fetched word comes from an address both of whose bytes exist. -/
theorem State.pc_le_of_fetch {s : State} {w : Word} (h : s.fetch = some w) : s.pc.toNat ≤ 0xFFE :=
  (State.fetch_isSome s).1 (by simp [h])

/-- A tick of a halted core answers the same state. -/
theorem step_halted {s : State} (h : s.halt = true) : step s = .next s := by
  simp [step, tick, h]

/-- A tick whose fetch fails. -/
theorem step_fetch_none {s : State} (h : s.halt = false) (hf : s.fetch = none) :
    step s = .next (s.start.raise .fetchOutOfRange none) := by
  simp [step, tick, h, runTick, hf]

/-- A tick whose fetch answers a word dispatches it. -/
theorem step_fetch_some {s : State} {w : Word} (h : s.halt = false) (hf : s.fetch = some w) :
    step s = dispatchWord w s.start := by
  simp [step, tick, h, runTick, hf]

/-- What a meaning does: it raises one of the two execution faults, or it executes normally. -/
theorem exec_cases {i : Instr} {s t : State} (h : exec i s = .next t) :
    (t = s.raise .unwrittenRead (some (encode i)) ∧ s.config.strictUnwritten = true) ∨
    (t = s.raise .spriteOutOfRange (some (encode i)) ∧
      ∃ x y n, i = .drw x y n ∧ spriteOutOfRange s.i n = true) ∨
    (i = .cls ∧ t = s.advance.setDisp Display.blank) ∨
    (∃ nnn, i = .jp nnn ∧ t = s.advance.jump (zext16 nnn)) ∨
    (∃ x nn, i = .ldV x nn ∧ t = s.advance.writeV x nn) ∨
    (∃ x nn, i = .addV x nn ∧ s.readableV x = true ∧ t = s.advance.writeV x (addByte (s.readV x) nn)) ∨
    (∃ nnn, i = .ldI nnn ∧ t = s.advance.writeI (zext16 nnn)) ∨
    (∃ x y n, i = .drw x y n ∧ spriteOutOfRange s.i n = false ∧
      t = ((s.advance).setDisp (drawSprite x y n s).disp).writeV flagRegister
        (collisionFlag (drawSprite x y n s).collided)) := by
  have hstrict : ∀ x, s.readableV x = false → s.config.strictUnwritten = true := by
    intro x; simp only [readableV]; cases s.config.strictUnwritten <;> simp
  have hstrictI : s.readableI = false → s.config.strictUnwritten = true := by
    simp only [readableI]; cases s.config.strictUnwritten <;> simp
  cases i with
  | cls => simp_all [exec, execCls]
  | jp nnn => simp_all [exec, execJp]
  | ldV x nn => simp_all [exec, execLdV]
  | ldI nnn => simp_all [exec, execLdI]
  | addV x nn =>
    simp only [exec, execAddV] at h
    split at h <;> simp only [Host.Outcome.next.injEq] at h <;> subst t
    · simp_all
    · exact .inl ⟨rfl, hstrict x (by simp_all)⟩
  | drw x y n =>
    simp only [exec, execDrw] at h
    split at h
    · next hv =>
      simp only [Host.Outcome.next.injEq] at h; subst t
      simp only [Bool.not_eq_true', Bool.and_eq_false_iff] at hv
      exact .inl ⟨rfl, hv.elim (hstrict x) (hstrict y)⟩
    · split at h
      · simp only [Host.Outcome.next.injEq] at h; subst t
        exact .inl ⟨rfl, hstrictI (by simp_all)⟩
      · split at h <;> simp only [Host.Outcome.next.injEq] at h <;> subst t
        · exact .inr (.inl ⟨rfl, x, y, n, rfl, ‹_›⟩)
        · simp_all

/-- Everything a step can do: nothing (halted), a fault at fetch, a fault at dispatch, or a meaning. -/
theorem step_cases {s t : State} (h : step s = .next t) :
    (s.halt = true ∧ t = s) ∨
    (s.halt = false ∧ s.fetch = none ∧ t = s.start.raise .fetchOutOfRange none) ∨
    (∃ w r, s.halt = false ∧ s.fetch = some w ∧ decode w = .error r ∧
      t = s.start.raise .unsupportedOpcode (some w)) ∨
    (∃ w i, s.halt = false ∧ s.fetch = some w ∧ decode w = .ok i ∧ exec i s.start = .next t) := by
  cases hh : s.halt with
  | true => rw [step_halted hh] at h; simp_all
  | false =>
    cases hf : s.fetch with
    | none => rw [step_fetch_none hh hf] at h; simp_all
    | some w =>
      rw [step_fetch_some hh hf, dispatchWord] at h
      cases hd : decode w with
      | ok i => simp_all
      | error r => simp_all

end Sys2Proof.Machine
end

