-- ==== Sys2Proof/Laws/PerInstr.lean ====
section
/-! SUPPORT. One statement per instruction: its word matches its row of the opcode map (30_encoding.md R73). -/

namespace Sys2Proof.Laws.OpcodeRow

/-- The mask of an instruction's row. -/
def rowMask : Instr → Word
  | .cls => 0xFFFF
  | .jp _ => 0xF000
  | .ldV _ _ => 0xF000
  | .addV _ _ => 0xF000
  | .ldI _ => 0xF000
  | .drw _ _ _ => 0xF000

/-- The match of an instruction's row. -/
def rowMatch : Instr → Word
  | .cls => 0x00E0
  | .jp _ => 0x1000
  | .ldV _ _ => 0x6000
  | .addV _ _ => 0x7000
  | .ldI _ => 0xA000
  | .drw _ _ _ => 0xD000

/-- The word of `i`, under the mask of its row, is the row's match. -/
def Statement (i : Instr) : Prop := encode i &&& rowMask i = rowMatch i

/-- Masking bits 15..12 of an or takes the or of the masked parts. -/
theorem mask_or (a b : Word) : (a ||| b) &&& 0xF000#16 = (a &&& 0xF000#16) ||| (b &&& 0xF000#16) := by
  ext i hi; simp [Bool.and_or_distrib_right]

/-- Twelve bits have nothing under the mask of bits 15..12. -/
theorem mask_low {a : Word} (h : a.toNat < 4096) : a &&& 0xF000#16 = 0#16 := by
  apply BitVec.eq_of_getLsbD_eq
  intro i hi
  by_cases h12 : i < 12
  · have : (0xF000#16).getLsbD i = false := by interval_cases i <;> rfl
    simp [this]
  · have : a.getLsbD i = false := by
      rw [BitVec.getLsbD]
      exact Nat.testBit_lt_two_pow (lt_of_lt_of_le h (by
        calc 4096 = 2 ^ 12 := by norm_num
          _ ≤ 2 ^ i := Nat.pow_le_pow_right (by norm_num) (by omega)))
    simp [this]

theorem mask_setWidth {k : Nat} (hk : k ≤ 12) (a : BitVec k) : a.setWidth 16 &&& 0xF000#16 = 0#16 := by
  apply mask_low
  have := a.isLt
  have : (2 : Nat) ^ k ≤ 2 ^ 12 := Nat.pow_le_pow_right (by norm_num) hk
  simp only [BitVec.toNat_setWidth]
  omega

theorem mask_x (x : Reg) : (BitVec.ofNat 16 x.val <<< 8) &&& 0xF000#16 = 0#16 := by
  revert x; decide

theorem mask_y (y : Reg) : (BitVec.ofNat 16 y.val <<< 4) &&& 0xF000#16 = 0#16 := by
  revert y; decide

theorem mask_n (n : RowCount) : BitVec.ofNat 16 n.val &&& 0xF000#16 = 0#16 := by
  revert n; decide

theorem cls : Statement .cls := rfl

theorem jp (nnn : Addr12) : Statement (.jp nnn) := by
  simp [Statement, encode, rowMask, rowMatch, mask_or, mask_setWidth]

theorem ldV (x : Reg) (nn : Byte) : Statement (.ldV x nn) := by
  simp [Statement, encode, rowMask, rowMatch, mask_or, mask_setWidth, mask_x]

theorem addV (x : Reg) (nn : Byte) : Statement (.addV x nn) := by
  simp [Statement, encode, rowMask, rowMatch, mask_or, mask_setWidth, mask_x]

theorem ldI (nnn : Addr12) : Statement (.ldI nnn) := by
  simp [Statement, encode, rowMask, rowMatch, mask_or, mask_setWidth]

theorem drw (x y : Reg) (n : RowCount) : Statement (.drw x y n) := by
  simp [Statement, encode, rowMask, rowMatch, mask_or, mask_x, mask_y, mask_n]

end Sys2Proof.Laws.OpcodeRow
end

