-- ==== Sys2Proof/Tests/Slice0.lean ====
section
/-! SUPPORT. The model's own tests: the assembler's refusals, words written out from the table, steps of
95_test_vectors.md, and for each statement with hypotheses a state that meets them. Expected results come from spec/. -/

namespace Sys2Proof.Tests

open Machine

/-! ### WellFormed: an ill-formed line for each check (30_encoding.md R79, R80) -/

theorem test_refuses_jp_nnn : (AsmLine.jp 0x1000).wellFormed = false := by decide
theorem test_refuses_ldV_x : (AsmLine.ldV 0x10 0).wellFormed = false := by decide
theorem test_refuses_ldV_nn : (AsmLine.ldV 0 0x100).wellFormed = false := by decide
theorem test_refuses_addV_x : (AsmLine.addV 0x10 0).wellFormed = false := by decide
theorem test_refuses_addV_nn : (AsmLine.addV 0 0x100).wellFormed = false := by decide
theorem test_refuses_ldI_nnn : (AsmLine.ldI 0x1000).wellFormed = false := by decide
theorem test_refuses_drw_x : (AsmLine.drw 0x10 0 0).wellFormed = false := by decide
theorem test_refuses_drw_y : (AsmLine.drw 0 0x10 0).wellFormed = false := by decide
theorem test_refuses_drw_n : (AsmLine.drw 0 0 0x10).wellFormed = false := by decide
theorem test_refuses_dw : (AsmLine.dw 0x10000).wellFormed = false := by decide
theorem test_refuses_db : (AsmLine.db 0x100).wellFormed = false := by decide
theorem test_accepts_widest : (AsmLine.drw 0xF 0xF 0xF).wellFormed = true := by decide

/-- The source of program P2's last lines (95_test_vectors.md): an instruction, a word and a byte. -/
theorem test_assembles_P2_end :
    assembleAll [.addV 0xF 0x05, .dw 0x00EE, .db 0xC3] = some [0x7F, 0x05, 0x00, 0xEE, 0xC3] := by decide

/-- 30_encoding.md R79: `ADD Vx, nn`. -/
theorem test_text_add : (AsmLine.addV 0xA 0x01).text = "ADD VA, 0x01".toList := by decide

/-! ### Decode: words written out bit by bit from 30_encoding.md R73 -/

theorem test_decode_cls : decode 0b0000000011100000#16 = .ok .cls := by decide
theorem test_decode_jp : decode 0b0001101010111100#16 = .ok (.jp 0xABC) := by decide
theorem test_decode_ldV : decode 0b0110101001000010#16 = .ok (.ldV 0xA 0x42) := by decide
theorem test_decode_addV : decode 0b0111010100000001#16 = .ok (.addV 5 0x01) := by decide
theorem test_decode_ldI : decode 0b1010000100100011#16 = .ok (.ldI 0x123) := by decide
theorem test_decode_drw : decode 0b1101000100101111#16 = .ok (.drw 1 2 0xF) := by decide
theorem test_decode_return_is_unsupported : decode 0b0000000011101110#16 = .error (.unsupported 0x00EE) := by decide
theorem test_decode_bytes_truncated : decodeBytes [0x12] = .error .truncated := by decide
theorem test_decode_table_word : decodeTableWord 16 0xD12F = some (.drw 1 2 0xF) := by decide

/-! ### Steps of 95_test_vectors.md -/

/-- The state after one step (every step answers a next state). -/
def after (s : State) : State :=
  match step s with
  | .next t => t
  | _ => s

/-- Reset, with one word where the first tick fetches. -/
def prog (w : Nat) : State := State.reset.withFetchWord 16 w

/-- The same in the strict model. -/
def strictProg (w : Nat) : State :=
  (State.resetOf { defaultConfig with strictUnwritten := true }).withFetchWord 16 w

/-- The state `prog w` with a sprite at I = 0x300. -/
def withSprite (s : State) (bytes : List Byte) : State := { s.writeMem 0x300 bytes with i := 0x300 }

/-- The framebuffer with every cell lit. -/
def allLit : Display := Vector.replicate 64 (Vector.replicate 32 true)

/-- CLS1, at the last cell. -/
theorem test_cls_clears :
    let t := after { prog 0x00E0 with disp := allLit, v := (prog 0x00E0).v.set 0xF 1 }
    t.disp.cell 63 31 = false ∧ t.readV 0xF = 1 ∧ t.pc = 0x202 := by decide

/-- JP1. -/
theorem test_jp_target : (after (prog 0x1ABC)).pc = 0xABC := by decide

/-- JP4: the target 0xFFF is legal, and the next fetch faults there. -/
theorem test_jp_to_last_byte :
    let t := after (prog 0x1FFF)
    tickResult t (after t) = .fault { fault := .fetchOutOfRange, word := none, pc := 0xFFF } := by decide

/-- LD1. -/
theorem test_ldV_loads : (after (prog 0x6A42)).readV 0xA = 0x42 := by decide

/-- LD2: VF is an ordinary register. -/
theorem test_ldV_of_vf : (after { prog 0x6F00 with v := (prog 0).v.set 0xF 1 }).readV 0xF = 0 := by decide

/-- ADD2: the sum wraps and VF is no carry. -/
theorem test_addV_wraps :
    let t := after { prog 0x7301 with v := ((prog 0).v.set 3 0xFF).set 0xF 0xAB }
    t.readV 3 = 0x00 ∧ t.readV 0xF = 0xAB := by decide

/-- ADD10: the strict model. -/
theorem test_addV_strict :
    let s := strictProg 0x7301
    tickResult s (after s) = .fault { fault := .unwrittenRead, word := some 0x7301, pc := 0x200 } := by decide

/-- LDI2. -/
theorem test_ldI_loads : (after (prog 0xAFFF)).i = 0x0FFF := by decide

/-- DRW12: the column comes from the old VF, and one lit cell is turned off. -/
theorem test_drw_old_vf_collision :
    let s := withSprite { prog 0xDF11 with disp := Display.blank.toggle 5 0, v := (prog 0).v.set 0xF 0x05 } [0xF0]
    let t := after s
    t.disp = ((Display.blank.toggle 6 0).toggle 7 0).toggle 8 0 ∧ t.readV 0xF = 0x01 := by decide

/-- DRW20: clipped to the corner cell. -/
theorem test_drw_clips :
    let s := withSprite { prog 0xD012 with v := ((prog 0).v.set 0 0x3F).set 1 0x1F } [0xFF, 0xFF]
    (after s).disp = Display.blank.toggle 63 31 ∧ (after s).readV 0xF = 0x00 := by decide

/-- DRW15: the range check is over clipped rows too, and VF keeps its value. -/
theorem test_drw_out_of_range :
    let s := { prog 0xD012 with i := 0xFFF, v := ((prog 0).v.set 1 0x1F).set 0xF 0x07 }
    tickResult s (after s) = .fault { fault := .spriteOutOfRange, word := some 0xD012, pc := 0x200 } ∧
      (after s).readV 0xF = 0x07 ∧ (after s).pc = 0x200 := by decide

/-- F1: reset memory at 0x200 is the unsupported word 0x0000. -/
theorem test_unloaded_core_faults :
    tickResult State.reset (after State.reset) =
      .fault { fault := .unsupportedOpcode, word := some 0x0000, pc := 0x200 } := by decide

/-- M5: a later load overwrites an earlier one. -/
theorem test_loads_in_order :
    ∃ t, runOps [.load 0x200 [0x11, 0x22], .load 0x201 [0x33]] State.reset = .next t ∧
      t.readMem 0x200 = 0x11 ∧ t.readMem 0x201 = 0x33 := ⟨_, rfl, by decide⟩

/-- M3. -/
theorem test_load_past_end :
    loadPort 0xFFF [0x01, 0x02] State.reset = .refused .loadOutOfRange := rfl

/-- RS1, at the edges of the font and of memory. -/
theorem test_reset_memory :
    [0x000, 0x04F, 0x050, 0x054, 0x055, 0x09F, 0x0A0, 0xFFF].map State.reset.readMem =
      [0x00, 0x00, 0xF0, 0xF0, 0x20, 0x80, 0x00, 0x00] := by decide

/-- A write that puts the reset byte back leaves no entry. -/
theorem test_memory_is_canonical :
    ((State.reset.writeMem 0x050 [0x00]).writeMem 0x050 [0xF0]).mem = [] := by decide

/-! ### Witnesses: for each statement with hypotheses, a state and operands that meet all of them -/

theorem witness_FamilyZeroHoldsOnlyClear :
    (0x00E0 : Word).toNat < 0x1000 ∧ (prog 0x00E0).halt = false ∧ (prog 0x00E0).fetch = some 0x00E0 ∧
    (0x0FFF : Word).toNat < 0x1000 ∧ (0x0FFF : Word) ≠ 0x00E0 ∧ (prog 0x0FFF).fetch = some 0x0FFF := by decide

theorem witness_UnsupportedFamiliesAlwaysFail :
    (fieldF 0xFFFF).toNat ∈ [0x2, 0x3, 0x4, 0x5, 0x8, 0x9, 0xB, 0xC, 0xE, 0xF] ∧
    (prog 0xFFFF).halt = false ∧ (prog 0xFFFF).fetch = some 0xFFFF := by decide

theorem witness_EncodeOfDecode : decode 0x7FFF = .ok (.addV 0xF 0xFF) := by decide

/-- Two states that differ in every other byte of the program but agree on the two bytes at PC. -/
theorem witness_InstructionsAreTwoBytes :
    decodeBytes [0x6A, 0x42, 0xFF] = .ok (.ldV 0xA 0x42, [0xFF]) ∧
    (prog 0x6A42).fetch = some 0x6A42 ∧ ((prog 0x6A42).writeMem 0x202 [0x01]).fetch = some 0x6A42 := by decide

/-- At the last address that can be fetched from. -/
theorem witness_StepRunsTheDecodedInstruction :
    let s := { State.reset with pc := 0xFFE }.withFetchWord 16 0x6001
    s.halt = false ∧ s.pc.toNat ≤ 0xFFE ∧
    decodeBytes [s.readMem s.pc.toNat, s.readMem (s.pc.toNat + 1)] = .ok (.ldV 0 0x01, []) := by decide

theorem witness_FetchIsBigEndian :
    ({ State.reset with pc := 0xFFE }).pc.toNat ≤ 0xFFE ∧ 0xFFE < ({ State.reset with pc := 0xFFF }).pc.toNat := by decide

theorem witness_FetchPastTheEndFaults :
    let s := { State.reset with pc := 0xFFF }
    s.halt = false ∧ 0xFFE < s.pc.toNat := by decide

theorem witness_HaltedTicksChangeNothing : (after State.reset).halt = true := by decide

theorem witness_FaultsArePrecise :
    State.reset.halt = false ∧ step State.reset = .next (after State.reset) ∧ (after State.reset).halt = true :=
  ⟨rfl, rfl, by decide⟩

theorem witness_CompletedTicksWriteOnlyTheirState :
    (prog 0x6A42).halt = false ∧ step (prog 0x6A42) = .next (after (prog 0x6A42)) ∧
    (after (prog 0x6A42)).halt = false := ⟨by decide, rfl, by decide⟩

/-- One state for each clause: fetch, dispatch, the strict read of ADD and of DRW, the sprite range, completion. -/
theorem witness_FaultCausesInOrder :
    0xFFE < ({ State.reset with pc := 0xFFF }).pc.toNat ∧
    ((prog 0x2ABC).fetch = some 0x2ABC ∧ decode 0x2ABC = .error (.unsupported 0x2ABC)) ∧
    ((strictProg 0x7301).fetch = some 0x7301 ∧ decode 0x7301 = .ok (.addV 3 0x01) ∧
      (strictProg 0x7301).config.strictUnwritten = true ∧ (strictProg 0x7301).written.v[3] = false) ∧
    ((strictProg 0xD001).fetch = some 0xD001 ∧ decode 0xD001 = .ok (.drw 0 0 1) ∧
      (strictProg 0xD001).written.v[0] = false) ∧
    ({ prog 0xD012 with i := 0xFFF }.fetch = some 0xD012 ∧ decode 0xD012 = .ok (.drw 0 1 2) ∧
      { prog 0xD012 with i := 0xFFF }.config.strictUnwritten = false ∧ 0xFFF < (0xFFF : Word).toNat + (2 - 1)) := by
  decide

/-- Its last clause, an instruction that completes. -/
theorem witness_FaultCausesInOrder_completes :
    (prog 0x1ABC).halt = false ∧ step (prog 0x1ABC) = .next (after (prog 0x1ABC)) ∧
    (prog 0x1ABC).fetch = some 0x1ABC ∧ decode 0x1ABC = .ok (.jp 0xABC) ∧ Completes (.jp 0xABC) (prog 0x1ABC) :=
  ⟨by decide, rfl, by decide, by decide, trivial⟩

theorem witness_TickResultSaysWhatHappened : step (prog 0x1200) = .next (after (prog 0x1200)) := rfl

theorem witness_OnlyTheSelfJumpIsFixed :
    (after (prog 0x1200)).halt = false ∧ (after (prog 0x1200)).started = true ∧
    (0x200 : Addr12).setWidth 16 = (after (prog 0x1200)).pc ∧
    (after (prog 0x1200)).fetch = some (encode (.jp 0x200)) := by decide

/-- PC comes to 0xFFF by `1FFF`, and from the odd 0xFFD by another instruction; to 0x1000 from 0xFFE. -/
theorem witness_PcPastTheLastFetch :
    (after (prog 0x1FFF)).pc = 0xFFF ∧
    (after ({ State.reset with pc := 0xFFD }.withFetchWord 16 0x6000)).pc = 0xFFF ∧
    (after ({ State.reset with pc := 0xFFE }.withFetchWord 16 0x6000)).pc = 0x1000 := by decide

theorem witness_GoodEndsAreStable : EndsWell (after (prog 0x1200)) ∧ (after (prog 0x1200)).started = true :=
  ⟨⟨by decide, 0x200, by decide, by decide⟩, by decide⟩

theorem witness_ClearSetsEveryCellFalse : ∀ x y, State.reset.disp.cell x y = false := by
  intro x y; simp [State.reset, State.resetOf, Display.cell]

/-- The jump to 0x300 after reset meets the unsupported word 0x0000. -/
theorem witness_JumpSetsPcToItsTarget :
    (0x1FFF : Word) &&& 0xF000 = 0x1000 ∧ State.reset.halt = false ∧
    (State.reset.advance.jump (zext16 0x300)).fetch = some 0x0000 ∧
    decode 0x0000 = .error (.unsupported 0x0000) := by decide

theorem witness_LoadImmediateSetsRegister : (0x6FFF : Word) &&& 0xF000 = 0x6000 := by decide

theorem witness_AddImmediateWrapsWithoutFlag :
    (0x7FFF : Word) &&& 0xF000 = 0x7000 ∧ State.reset.config.strictUnwritten = false ∧
    (strictProg 0).config.strictUnwritten = true ∧ (strictProg 0).written.v[3] = false ∧
    ((strictProg 0).writeV 3 0).written.v[3] = true := by decide

theorem witness_LoadIndexSetsI :
    (0xAFFF : Word) &&& 0xF000 = 0xA000 ∧ State.reset.readableV 0 = true ∧
    1 ≤ (2 : RowCount).val ∧ 0xFFF < (0xFFF : Addr12).toNat + ((2 : RowCount).val - 1) := by decide

/-- In the default model, and in the strict model once the registers are written; at the last address a sprite of fifteen
rows may start at (95_test_vectors.md DRW16, DRW17). -/
theorem witness_DrawXorsTheClippedSprite :
    State.reset.config.strictUnwritten = false ∧
    (((strictProg 0).writeV 0 0).writeI 0xFF1).written.v[0] = true ∧
    (((strictProg 0).writeV 0 0).writeI 0xFF1).written.i = true ∧
    (1 ≤ (15 : RowCount).val ∧ (0xFF1 : Word).toNat + ((15 : RowCount).val - 1) ≤ 0xFFF) := by decide

/-- A cell under a set bit of glyph 0, and one under a clear bit. -/
theorem witness_DrawXorsTheClippedSprite_cells :
    let s := { State.reset with i := 0x050 }
    spriteLights s 0 1 5 3 1 ∧ ¬ spriteLights s 0 1 5 1 1 := by
  refine ⟨⟨by decide, by decide, 3, 1, by decide, by decide, by decide, by decide, by decide⟩, ?_⟩
  rintro ⟨-, -, k, row, -, -, hk, hrow, h⟩
  have hx : ((State.reset).readV 0).toNat % 64 = 0 := by decide
  have hy : ((State.reset).readV 1).toNat % 32 = 0 := by decide
  obtain rfl : k = 1 := by change 1 = ((State.reset).readV 0).toNat % 64 + k at hk; omega
  obtain rfl : row = 1 := by change 1 = ((State.reset).readV 1).toNat % 32 + row at hrow; omega
  revert h; decide

/-- A draw that turns a cell off, and one that turns none off. -/
theorem witness_DrawXorsTheClippedSprite_collision :
    let s := { State.reset with i := 0x050, disp := Display.blank.toggle 0 0 }
    (∃ t, exec (.drw 0 1 5) s = .next t ∧ s.disp.cell 0 0 = true ∧ t.disp.cell 0 0 = false) ∧
    ∀ px py, State.reset.disp.cell px py = false :=
  ⟨⟨_, rfl, by decide, by decide⟩, fun px py => Display.cell_blank px py⟩

theorem witness_DrawOfNoRowsOnlyClearsVf : (prog 0xD010).config.strictUnwritten = false := by decide

theorem witness_SpriteOutOfRangeFaults :
    State.reset.config.strictUnwritten = false ∧ 1 ≤ (15 : RowCount).val ∧
    0xFFF < ({ State.reset with i := 0xFF2 }).i.toNat + ((15 : RowCount).val - 1) := by decide

theorem witness_UnwrittenDrawOperandsFault :
    let s := ((strictProg 0).writeV 0 0).writeV 1 0
    s.config.strictUnwritten = true ∧ s.written.v[0] = true ∧ s.written.v[1] = true ∧ s.written.i = false := by decide

theorem witness_DrawingTwiceRestoresTheFramebuffer :
    let s := { prog 0xD015 with i := 0x050 }
    (0 : Reg) ≠ 0xF ∧ (1 : Reg) ≠ 0xF ∧ Completes (.drw 0 1 5) s ∧
    ∃ t u, exec (.drw 0 1 5) s = .next t ∧ exec (.drw 0 1 5) t = .next u :=
  ⟨by decide, by decide, ⟨by decide, by decide, by decide, by decide⟩, _, _, rfl, rfl⟩

/-- Row 1 of the sprite is clipped (95_test_vectors.md DRW9), and the two memories differ in its byte. -/
theorem witness_ClippedRowsAreNotRead :
    let s := { prog 0xD012 with i := 0x300, v := (prog 0).v.set 1 0x1F }
    let m := Memory.write s.config s.mem 0x301 0xFF
    (∀ row, row < (2 : RowCount).val → (s.readV 1).toNat % 32 + row ≤ 31 →
      Memory.read s.config m (s.i.toNat + row) = s.readMem (s.i.toNat + row)) ∧
    Memory.read s.config m 0x301 ≠ s.readMem 0x301 ∧ ∃ t, exec (.drw 0 1 2) s = .next t :=
  ⟨by decide, by decide, _, rfl⟩

theorem witness_FrameOfRegisterInstructions :
    (.ldI 0x123 : Instr) ≠ .cls ∧ (∀ x y n, (.ldI 0x123 : Instr) ≠ .drw x y n) ∧
    (∃ t, exec (.ldI 0x123) (prog 0xA123) = .next t) ∧ Completes (.ldI 0x123) (prog 0xA123) :=
  ⟨by decide, by simp, ⟨_, rfl⟩, trivial⟩

theorem witness_FrameOfDisplayInstructions :
    (∃ t, exec (.drw 0 1 5) State.reset = .next t) ∧ Completes (.drw 0 1 5) State.reset ∧
    (∃ t, exec (.drw 0 1 5) (strictProg 0) = .next t) ∧ (strictProg 0).readableV 0 = false :=
  ⟨⟨_, rfl⟩, ⟨by decide, by decide, by decide, by decide⟩, ⟨_, rfl⟩, by decide⟩

theorem witness_UnwrittenReadIsStrictOnly :
    State.reset.config.strictUnwritten = false ∧ State.reset.halt = false ∧
    step State.reset = .next (after State.reset) ∧
    tickResult State.reset (after State.reset) =
      .fault { fault := .unsupportedOpcode, word := some 0x0000, pc := 0x200 } :=
  ⟨rfl, rfl, rfl, by decide⟩

/-- A strict tick that completes, and one that faults without an unwritten read. -/
theorem witness_StrictModelRefinesDefault :
    ((strictProg 0x6A42).config.strictUnwritten = true ∧
      step (strictProg 0x6A42) = .next (after (strictProg 0x6A42)) ∧
      tickResult (strictProg 0x6A42) (after (strictProg 0x6A42)) = .ok) ∧
    (step (strictProg 0x2ABC) = .next (after (strictProg 0x2ABC)) ∧
      tickResult (strictProg 0x2ABC) (after (strictProg 0x2ABC)) =
        .fault { fault := .unsupportedOpcode, word := some 0x2ABC, pc := 0x200 }) :=
  ⟨⟨rfl, rfl, by decide⟩, rfl, by decide⟩

/-- A font whose byte FONT[5] differs from the default. -/
def otherFont : Config := { defaultConfig with glyphs1toF := conventionalGlyphs.set 0 0x21 }

/-- A machine with that font, and the default font's byte listed over it: its bytes agree with the reset's. -/
theorem witness_TicksSeeMemoryOnlyThroughItsBytes :
    otherFont.strictUnwritten = State.reset.config.strictUnwritten ∧ resetByte otherFont 0x055 ≠ 0x20 ∧
    (∀ a, a ≤ 0xFFF → Memory.read otherFont [(0x055, 0x20)] a = State.reset.readMem a) ∧
    step State.reset = .next (after State.reset) := by
  refine ⟨rfl, by decide, fun a _ => ?_, rfl⟩
  by_cases ha : a = 0x055
  · subst a; decide
  · have h : Memory.read otherFont [(0x055, 0x20)] a = resetByte otherFont a := by simp [Memory.read, ha]
    rw [h]
    change resetByte otherFont a = resetByte defaultConfig a
    simp only [resetByte, fontByte]
    split
    · split
      · rfl
      · split
        · have : 0 ≠ a - 0x050 - 5 := by omega
          simp [otherFont, defaultConfig, this]
        · rfl
    · rfl

theorem witness_RunsNeverWriteMemoryOrStack : ∃ t, Sys2Proof.core.run 3 (prog 0x1200) = .next t := ⟨_, rfl⟩

/-- The last two bytes of memory (95_test_vectors.md M2). -/
theorem witness_LoadCopiesItsBytes :
    State.reset.started = false ∧ Memory.wf State.reset.config State.reset.mem ∧
    0xFFE + ([0x01, 0x02] : List Byte).length ≤ 4096 := ⟨rfl, ⟨by decide, by decide⟩, by decide⟩

/-- After a first load; an empty load and one that ends at the last address fit. -/
theorem witness_LoadsApplyInOrder :
    ∃ s, Reachable s ∧ s.started = false ∧ 0x1000 + ([] : List Byte).length ≤ 4096 ∧
      0xFFE + [0x12, (0x00 : Byte)].length ≤ 4096 :=
  ⟨_, ⟨defaultConfig, [.load 0x200 [0x12, 0x00]], rfl⟩, by decide, by decide, by decide⟩

theorem witness_PortsRefuseWhatTheSpecRefuses :
    0xFFF ≤ 0xFFF ∧ 0xFFF < 0x1000 ∧ State.reset.started = false ∧ (after State.reset).started = true := by decide

theorem witness_ResetMemoryIsZeroWithTheFont :
    (0x04F < 0x050) ∧ (0x09F < 0x0A0 ∧ 0x0A0 ≤ 0xFFF) ∧ 79 < 80 := by decide

theorem witness_LatchesAreClearedOnlyByReset_first_tick :
    State.reset.halt = false ∧ HostOp.tick.apply State.reset = .next (after State.reset) := ⟨rfl, rfl⟩

theorem witness_LatchesAreClearedOnlyByReset :
    (after State.reset).started = true ∧
    HostOp.tick ≠ .reset ∧ (after State.reset).halt = true ∧
    ∃ t, HostOp.tick.apply (after State.reset) = .next t := ⟨by decide, by decide, by decide, _, rfl⟩

theorem witness_HostDumpsMemoryInOrder :
    tickResult State.reset (after State.reset) =
      .fault { fault := .unsupportedOpcode, word := some 0x0000, pc := 0x200 } ∧
    (after State.reset).config.debugDump = true ∧
    let s := { State.reset with config := { defaultConfig with debugDump := false } }
    tickResult s (after s) = .fault { fault := .unsupportedOpcode, word := some 0x0000, pc := 0x200 } ∧
      (after s).config.debugDump = false := by decide

theorem witness_CanonicalMemoryIsDetermined :
    Memory.wf defaultConfig [(0x051, 0x00), (0x200, 0x12)] := ⟨by decide, by decide⟩

/-- The invariant holds at reset, which has a next state. -/
theorem witness_StepKeepsStateInv : StateInv State.reset ∧ ∃ t, step State.reset = .next t := by
  refine ⟨?_, _, rfl⟩
  constructor <;> simp [State.reset, State.resetOf, defaultConfig, Memory.wf]

/-- One operation of each kind at a state with the invariant: a load that ends at the last address, a tick, a reset. -/
theorem witness_HostOperationsKeepStateInv :
    StateInv State.reset ∧
    (∃ t, HostOp.apply (.load 0xFFE [0x12, 0x00]) State.reset = .next t ∧ t.readMem 0xFFE = 0x12) ∧
    (∃ t, HostOp.tick.apply State.reset = .next t ∧ t.started = true) ∧
    ∃ t, HostOp.reset.apply State.reset = .next t :=
  ⟨witness_StepKeepsStateInv.1, ⟨_, rfl, by decide⟩, ⟨_, rfl, by decide⟩, _, rfl⟩

theorem witness_ReachableStatesSatisfyStateInv :
    ∃ s, Reachable s ∧ s.readMem 0x200 = 0x12 :=
  ⟨_, ⟨defaultConfig, [.load 0x200 [0x12, 0x00], .tick], rfl⟩, by decide⟩

end Sys2Proof.Tests
end

section
/-! Memory, load and reset (20_memory.md): what a load leaves, what ticks keep, and the invariant of sessions that rests on
both. -/

namespace Sys2Proof.Machine

/-! ### Memory after reset -/

/-- After reset memory lists nothing, so every address reads as reset left it (R51). -/
@[simp] theorem State.readMem_resetOf (c : Config) (a : Nat) : (State.resetOf c).readMem a = resetByte c a := rfl

theorem resetByte_outside_font (c : Config) {a : Nat} (h : a < 0x050 ∨ 0x09F < a) : resetByte c a = 0 :=
  if_neg (by omega)

theorem resetByte_font (c : Config) {k : Nat} (h : k < 80) : resetByte c (0x050 + k) = fontByte c k := by
  rw [resetByte, if_pos (by omega), Nat.add_sub_cancel_left]

/-- FONT[0..4] is the source's glyph 0, whatever the other glyphs are (R54). -/
theorem fontByte_glyph0 (c : Config) {k : Nat} (h : k < 5) : fontByte c k = glyph0[k] := dif_pos h

/-! ### What a load leaves -/

theorem State.writeMem_nil (s : State) (a : Nat) : s.writeMem a [] = s := rfl

/-- A store of bytes is a change of memory alone. -/
theorem State.writeMem_eq (s : State) (a : Nat) (bytes : List Byte) :
    s.writeMem a bytes = { s with mem := (s.writeMem a bytes).mem } := rfl

theorem State.wf_writeMem {s : State} (hm : Memory.wf s.config s.mem) {a : Nat} {bytes : List Byte}
    (h : a + bytes.length ≤ memSize) : Memory.wf (s.writeMem a bytes).config (s.writeMem a bytes).mem :=
  Memory.wf_writeBytes hm h

theorem State.readMem_writeMem_inside {s : State} (hm : Memory.wf s.config s.mem) {a : Nat} {bytes : List Byte}
    (h : a + bytes.length ≤ memSize) {k : Nat} (hk : k < bytes.length) :
    (s.writeMem a bytes).readMem (a + k) = bytes[k] :=
  (Memory.read_writeBytes hm h (a + k)).trans (by simp [hk])

theorem State.readMem_writeMem_outside {s : State} (hm : Memory.wf s.config s.mem) {a : Nat} {bytes : List Byte}
    (h : a + bytes.length ≤ memSize) {b : Nat} (hb : b < a ∨ a + bytes.length ≤ b) :
    (s.writeMem a bytes).readMem b = s.readMem b :=
  (Memory.read_writeBytes hm h b).trans (dif_neg (by omega))

/-- The load port answers exactly before the first tick and inside memory (R57 to R59), with the bytes stored. -/
theorem loadPort_eq_next_iff {offset : Nat} {bytes : List Byte} {s t : State} :
    loadPort offset bytes s = .next t ↔
      s.started = false ∧ offset + bytes.length ≤ memSize ∧ t = s.writeMem offset bytes := by
  rw [loadPort]
  split
  next hclosed => simp [hclosed]
  next hopen =>
    split
    next hlen => simp [Nat.not_le.2 hlen]
    next hlen => simp [hopen, Nat.le_of_not_lt hlen, eq_comm (a := t)]

/-- Everything a host operation that answers can do: construct the machine again, store a load's bytes, or tick. -/
theorem HostOp.apply_cases {op : HostOp} {s t : State} (h : op.apply s = .next t) :
    (op = .reset ∧ t = State.resetOf s.config) ∨
    (∃ offset bytes, op = .load offset bytes ∧ s.started = false ∧ offset + bytes.length ≤ memSize ∧
      t = s.writeMem offset bytes) ∨
    (op = .tick ∧ step s = .next t) := by
  cases op with
  | reset => exact .inl ⟨rfl, (Host.Outcome.next.inj h).symm⟩
  | load offset bytes => exact .inr (.inl ⟨offset, bytes, rfl, loadPort_eq_next_iff.1 h⟩)
  | tick => exact .inr (.inr ⟨rfl, h⟩)
  | writeRegister | writeFramebuffer | tickInsideTick => simp [HostOp.apply] at h

/-! ### What instructions and ticks keep -/

/-- No instruction writes memory or the parameters (R52), and none clears STARTED. -/
theorem exec_keeps_memory {i : Instr} {s t : State} (h : exec i s = .next t) :
    t.mem = s.mem ∧ t.config = s.config ∧ (s.started = true → t.started = true) := by
  obtain ⟨rfl, -⟩ | ⟨rfl, -⟩ | ⟨-, rfl⟩ | ⟨_, -, rfl⟩ | ⟨_, _, -, rfl⟩ | ⟨_, _, -, -, rfl⟩ | ⟨_, -, rfl⟩ |
    ⟨_, _, _, -, -, rfl⟩ := exec_cases h <;> simp

/-- No tick writes memory or the parameters (R52), and a tick of a core that is not halted leaves STARTED set. -/
theorem step_keeps_memory {s t : State} (h : step s = .next t) :
    t.mem = s.mem ∧ t.config = s.config ∧ (t = s ∨ t.started = true) := by
  obtain ⟨-, rfl⟩ | ⟨-, -, rfl⟩ | ⟨_, _, -, -, -, rfl⟩ | ⟨_, _, -, -, -, hexec⟩ := step_cases h
  · simp
  · simp
  · simp
  · obtain ⟨hmem, hconfig, hstarted⟩ := exec_keeps_memory hexec
    exact ⟨hmem, hconfig, .inr (hstarted rfl)⟩

/-! ### Sessions -/

/-- What every host operation keeps, every session keeps. -/
theorem runOps_induction {P : State → Prop} (hop : ∀ (op : HostOp) (s t : State), P s → op.apply s = .next t → P t)
    {ops : List HostOp} {s t : State} (hs : P s) (h : runOps ops s = .next t) : P t := by
  induction ops generalizing s with
  | nil => exact Host.Outcome.next.inj h ▸ hs
  | cons op ops ih =>
    rw [runOps] at h
    split at h
    next u hu => exact ih (hop op s u hs hu) h
    all_goals cases h

end Sys2Proof.Machine

namespace Sys2Proof

open Machine

/-- What holds after reset and is kept by every host operation holds of every reachable state. -/
theorem Reachable.induction {P : State → Prop} (hreset : ∀ c, P (State.resetOf c))
    (hop : ∀ (op : HostOp) (s t : State), P s → op.apply s = .next t → P t) {s : State} (h : Reachable s) : P s := by
  obtain ⟨c, ops, hrun⟩ := h
  exact runOps_induction hop (hreset c) hrun

/-- What loads rest on: memory is canonical, so that a read after a store is the byte stored, and PC has not moved from its
reset value before the first tick. -/
structure LoadInv (s : State) : Prop where
  memCanonical : Memory.wf s.config s.mem
  pcBeforeStart : s.started = false → s.pc = 0x200

theorem loadInv_resetOf (c : Config) : LoadInv (State.resetOf c) := ⟨Memory.wf_nil c, fun _ => rfl⟩

theorem LoadInv.writeMem {s : State} (hs : LoadInv s) {a : Nat} {bytes : List Byte} (h : a + bytes.length ≤ memSize) :
    LoadInv (s.writeMem a bytes) :=
  ⟨State.wf_writeMem hs.memCanonical h, hs.pcBeforeStart⟩

theorem LoadInv.step {s t : State} (hs : LoadInv s) (h : step s = .next t) : LoadInv t := by
  obtain ⟨hmem, hconfig, rfl | hstarted⟩ := step_keeps_memory h
  · exact hs
  · exact ⟨by rw [hmem, hconfig]; exact hs.memCanonical, by simp [hstarted]⟩

theorem LoadInv.apply {op : HostOp} {s t : State} (hs : LoadInv s) (h : op.apply s = .next t) : LoadInv t := by
  obtain ⟨-, rfl⟩ | ⟨_, _, -, -, hlen, rfl⟩ | ⟨-, hstep⟩ := HostOp.apply_cases h
  · exact loadInv_resetOf _
  · exact hs.writeMem hlen
  · exact hs.step hstep

theorem Reachable.loadInv {s : State} (h : Reachable s) : LoadInv s :=
  h.induction loadInv_resetOf fun _ _ _ => LoadInv.apply

/-- Settles O51: reachable memory is canonical, so each load's store reads back byte by byte, and the invariant carries over
from the first load to the second. -/
theorem loadsApplyInOrder : Obligations.LoadsApplyInOrder := by
  intro offset offset' bytes bytes' s hreach hstarted hlen hlen'
  have hs : LoadInv s := hreach.loadInv
  have ht : LoadInv (s.writeMem offset bytes) := hs.writeMem hlen
  refine ⟨s.writeMem offset bytes, (s.writeMem offset bytes).writeMem offset' bytes', ?firstLoad, ?secondLoad,
    s.writeMem_eq offset bytes, rfl, ?firstEmpty, ?firstInside, ?firstOutside, ?secondInside, ?secondOutside, ?pc⟩
  case firstLoad => exact loadPort_eq_next_iff.2 ⟨hstarted, hlen, rfl⟩
  case secondLoad => exact loadPort_eq_next_iff.2 ⟨hstarted, hlen', rfl⟩
  case firstEmpty => rintro rfl; exact s.writeMem_nil offset
  case firstInside => exact fun k hk => State.readMem_writeMem_inside hs.memCanonical hlen hk
  case firstOutside => exact fun a ha => State.readMem_writeMem_outside hs.memCanonical hlen ha
  case secondInside => exact fun k hk => State.readMem_writeMem_inside ht.memCanonical hlen' hk
  case secondOutside => exact fun a ha => State.readMem_writeMem_outside ht.memCanonical hlen' ha
  case pc => exact hs.pcBeforeStart hstarted

/-- Settles O39: an unlisted address reads as its reset byte, which is 0 outside the font's range and the font byte in it. -/
theorem resetMemoryIsZeroWithTheFont : Obligations.ResetMemoryIsZeroWithTheFont := by
  intro c
  have hfont : ∀ k, k < 80 → (State.resetOf c).readMem (0x050 + k) = fontByte c k := fun _ hk => resetByte_font c hk
  have hglyph0 : ∀ k (hk : k < 5), (State.resetOf c).readMem (0x050 + k) = glyph0[k] := fun k hk =>
    (hfont k (by omega)).trans (fontByte_glyph0 c hk)
  exact ⟨fun a ha => resetByte_outside_font c (ha.imp_right And.left), hfont,
    hglyph0 0 (by decide), hglyph0 1 (by decide), hglyph0 2 (by decide), hglyph0 3 (by decide), hglyph0 4 (by decide)⟩

end Sys2Proof
end

section
/-! The clear of the framebuffer (43_display.md R130): which word it is, and what it leaves. -/

namespace Sys2Proof

/-- Family 0x0 holds the one word of CLS (30_encoding.md R74), and no other family decodes to it. -/
theorem decode_eq_cls_iff {w : Word} : decode w = .ok .cls ↔ w = 0x00E0 := by
  constructor
  · intro h
    obtain ⟨hw, -⟩ | ⟨-, hi⟩ | ⟨-, hi⟩ | ⟨-, hi⟩ | ⟨-, hi⟩ | ⟨-, hi⟩ := decode_ok_cases h
    · exact hw
    all_goals cases hi
  · rintro rfl; rfl

end Sys2Proof

namespace Sys2Proof.Machine

theorem exec_cls (s : State) : exec .cls s = .next (s.advance.setDisp Display.blank) := rfl

/-- A framebuffer with no lit pixel is the blank one. -/
theorem Display.eq_blank {d : Display} (h : ∀ x y, x < 64 → y < 32 → d.cell x y = false) : d = Display.blank :=
  Display.ext_cell fun x y hx hy => (h x y hx hy).trans (Display.cell_blank x y).symm

/-- Settles O20: the next state is the advanced one with the blank framebuffer, and a framebuffer whose cells are all
false already is that one. -/
theorem clearSetsEveryCellFalse : Obligations.ClearSetsEveryCellFalse := by
  refine ⟨fun _ => decode_eq_cls_iff, fun s => ⟨s.advance.setDisp Display.blank, exec_cls s, ?cells, ?frame, ?clear⟩⟩
  case cells => exact fun x y _ _ => Display.cell_blank x y
  case frame => rfl
  case clear => exact fun hclear => (Display.eq_blank hclear).symm

end Sys2Proof.Machine
end

section
/-! The encoding (30_encoding.md): the fields of a word as numbers, the decoder by families, and that encoder and
decoder are inverse to each other. -/

namespace Sys2Proof

/-! ### The fields as numbers (R71) -/

theorem fieldF_toNat (w : Word) : (fieldF w).toNat = w.toNat / 4096 := by
  simp only [fieldF, BitVec.extractLsb'_toNat, Nat.shiftRight_eq_div_pow]; omega

theorem fieldX_val (w : Word) : (fieldX w).val = w.toNat / 256 % 16 := by
  simp [fieldX, Nat.shiftRight_eq_div_pow]

theorem fieldY_val (w : Word) : (fieldY w).val = w.toNat / 16 % 16 := by
  simp [fieldY, Nat.shiftRight_eq_div_pow]

theorem fieldN_val (w : Word) : (fieldN w).val = w.toNat % 16 := by
  simp [fieldN]

theorem fieldNN_toNat (w : Word) : (fieldNN w).toNat = w.toNat % 256 := by
  simp [fieldNN, BitVec.extractLsb'_toNat]

theorem fieldNNN_toNat (w : Word) : (fieldNNN w).toNat = w.toNat % 4096 := by
  simp [fieldNNN, BitVec.extractLsb'_toNat]

theorem fieldNN_eq_setWidth (w : Word) : fieldNN w = w.setWidth 8 :=
  BitVec.eq_of_toNat_eq (by simp [fieldNN_toNat])

theorem fieldNNN_eq_setWidth (w : Word) : fieldNNN w = w.setWidth 12 :=
  BitVec.eq_of_toNat_eq (by simp [fieldNNN_toNat])

/-! ### The encoder's words as numbers (R79) -/

/-- Or-ing an operand under the zeros of a word adds it. -/
theorem toNat_or_of_lt {a b : Word} (k : Nat) (ha : 2 ^ k ∣ a.toNat) (hb : b.toNat < 2 ^ k) :
    (a ||| b).toNat = a.toNat + b.toNat := by
  obtain ⟨q, hq⟩ := ha
  have hshift : a.toNat = q <<< k := by rw [hq, Nat.shiftLeft_eq, Nat.mul_comm]
  rw [BitVec.toNat_or, hshift, Nat.shiftLeft_add_eq_or_of_lt hb]

theorem toNat_reg_shift8 (x : Reg) : (BitVec.ofNat 16 x.val <<< 8).toNat = x.val * 256 := by
  simp only [BitVec.toNat_shiftLeft, BitVec.toNat_ofNat, Nat.shiftLeft_eq]; omega

theorem toNat_reg_shift4 (y : Reg) : (BitVec.ofNat 16 y.val <<< 4).toNat = y.val * 16 := by
  simp only [BitVec.toNat_shiftLeft, BitVec.toNat_ofNat, Nat.shiftLeft_eq]; omega

theorem toNat_rowCount (n : RowCount) : (BitVec.ofNat 16 n.val).toNat = n.val := by
  simp only [BitVec.toNat_ofNat]; omega

theorem toNat_byte_setWidth (b : Byte) : (b.setWidth 16).toNat = b.toNat := by
  simp only [BitVec.toNat_setWidth]; omega

theorem toNat_addr_setWidth (a : Addr12) : (a.setWidth 16).toNat = a.toNat := Machine.zext16_toNat a

/-- A family's nibble and a 12-bit operand. -/
theorem toNat_family_addr {f : Word} (hf : 4096 ∣ f.toNat) (a : Addr12) :
    (f ||| a.setWidth 16).toNat = f.toNat + a.toNat := by
  rw [toNat_or_of_lt 12 hf (by rw [toNat_addr_setWidth]; exact a.isLt), toNat_addr_setWidth]

/-- A family's nibble and a register index in the field X. -/
theorem toNat_family_reg {f : Word} (hf : 4096 ∣ f.toNat) (x : Reg) :
    (f ||| BitVec.ofNat 16 x.val <<< 8).toNat = f.toNat + x.val * 256 := by
  rw [toNat_or_of_lt 12 hf (by rw [toNat_reg_shift8]; omega), toNat_reg_shift8]

/-- A family's nibble, a register index and an immediate byte. -/
theorem toNat_family_reg_byte {f : Word} (hf : 4096 ∣ f.toNat) (x : Reg) (b : Byte) :
    (f ||| BitVec.ofNat 16 x.val <<< 8 ||| b.setWidth 16).toNat = f.toNat + x.val * 256 + b.toNat := by
  have hx := toNat_family_reg hf x
  rw [toNat_or_of_lt 8 (by rw [hx]; omega) (by rw [toNat_byte_setWidth]; exact b.isLt), hx, toNat_byte_setWidth]

/-- The number of an instruction's word: its family and its operands at their places. -/
def wordNumber : Instr → Nat
  | .cls => 0x00E0
  | .jp nnn => 0x1000 + nnn.toNat
  | .ldV x nn => 0x6000 + x.val * 256 + nn.toNat
  | .addV x nn => 0x7000 + x.val * 256 + nn.toNat
  | .ldI nnn => 0xA000 + nnn.toNat
  | .drw x y n => 0xD000 + x.val * 256 + y.val * 16 + n.val

theorem encode_toNat (i : Instr) : (encode i).toNat = wordNumber i := by
  cases i with
  | cls => rfl
  | jp nnn => exact toNat_family_addr (by decide) nnn
  | ldV x nn => exact toNat_family_reg_byte (by decide) x nn
  | addV x nn => exact toNat_family_reg_byte (by decide) x nn
  | ldI nnn => exact toNat_family_addr (by decide) nnn
  | drw x y n =>
    have hx : (0xD000#16 ||| BitVec.ofNat 16 x.val <<< 8).toNat = 0xD000 + x.val * 256 :=
      toNat_family_reg (by decide) x
    have hy := toNat_reg_shift4 y
    have hxy := toNat_or_of_lt (b := BitVec.ofNat 16 y.val <<< 4) 8 (by rw [hx]; omega) (by rw [hy]; omega)
    rw [hx, hy] at hxy
    have hn := toNat_rowCount n
    rw [encode, toNat_or_of_lt 4 (by rw [hxy]; omega) (by rw [hn]; omega), hxy, hn, wordNumber]

/-! ### The decoder, family by family (R77) -/

/-- The word of CLS lies in family 0x0 (R74). -/
theorem ne_cls_word_of_family {w : Word} {f : Nat} (hf : (fieldF w).toNat = f) (hpos : f ≠ 0) : w ≠ 0x00E0#16 := by
  rintro rfl
  exact hpos (hf.symm.trans (by decide))

theorem decode_family_jp {w : Word} (hf : (fieldF w).toNat = 0x1) : decode w = .ok (.jp (fieldNNN w)) := by
  simp only [decode, if_neg (ne_cls_word_of_family hf (by decide)), hf]

theorem decode_family_ldV {w : Word} (hf : (fieldF w).toNat = 0x6) :
    decode w = .ok (.ldV (fieldX w) (fieldNN w)) := by
  simp only [decode, if_neg (ne_cls_word_of_family hf (by decide)), hf]

theorem decode_family_addV {w : Word} (hf : (fieldF w).toNat = 0x7) :
    decode w = .ok (.addV (fieldX w) (fieldNN w)) := by
  simp only [decode, if_neg (ne_cls_word_of_family hf (by decide)), hf]

theorem decode_family_ldI {w : Word} (hf : (fieldF w).toNat = 0xA) : decode w = .ok (.ldI (fieldNNN w)) := by
  simp only [decode, if_neg (ne_cls_word_of_family hf (by decide)), hf]

theorem decode_family_drw {w : Word} (hf : (fieldF w).toNat = 0xD) :
    decode w = .ok (.drw (fieldX w) (fieldY w) (fieldN w)) := by
  simp only [decode, if_neg (ne_cls_word_of_family hf (by decide)), hf]

/-- The decoder's one reason to reject a word names the word. -/
theorem decode_error {w : Word} {r : Reject} (h : decode w = .error r) : r = .unsupported w := by
  unfold decode at h
  split at h
  · cases h
  · split at h <;> cases h
    rfl

/-- A word is rejected exactly when it is no instruction's. -/
theorem decode_eq_unsupported_iff {w : Word} : decode w = .error (.unsupported w) ↔ ∀ i, decode w ≠ .ok i := by
  cases hd : decode w with
  | ok i => simp
  | error r => simp [decode_error hd]

/-! ### Encoder and decoder are inverse to each other -/

/-- The fields of a family's nibble with a 12-bit operand. -/
theorem fields_of_addr {w : Word} {f : Nat} {nnn : Addr12} (hw : w.toNat = f * 4096 + nnn.toNat) :
    (fieldF w).toNat = f ∧ fieldNNN w = nnn := by
  have hF := fieldF_toNat w
  have hNNN := fieldNNN_toNat w
  exact ⟨by omega, BitVec.eq_of_toNat_eq (by omega)⟩

/-- The fields of a family's nibble with a register index and an immediate byte. -/
theorem fields_of_reg_byte {w : Word} {f : Nat} {x : Reg} {nn : Byte}
    (hw : w.toNat = f * 4096 + x.val * 256 + nn.toNat) :
    (fieldF w).toNat = f ∧ fieldX w = x ∧ fieldNN w = nn := by
  have hF := fieldF_toNat w
  have hX := fieldX_val w
  have hNN := fieldNN_toNat w
  exact ⟨by omega, Fin.ext (by omega), BitVec.eq_of_toNat_eq (by omega)⟩

/-- The fields of a family's nibble with two register indices and a row count. -/
theorem fields_of_reg_reg_rows {w : Word} {f : Nat} {x y : Reg} {n : RowCount}
    (hw : w.toNat = f * 4096 + x.val * 256 + y.val * 16 + n.val) :
    (fieldF w).toNat = f ∧ fieldX w = x ∧ fieldY w = y ∧ fieldN w = n := by
  have hF := fieldF_toNat w
  have hX := fieldX_val w
  have hY := fieldY_val w
  have hN := fieldN_val w
  exact ⟨by omega, Fin.ext (by omega), Fin.ext (by omega), Fin.ext (by omega)⟩

/-- The decoder reads back each operand from its place in the word. -/
theorem decode_encode (i : Instr) : decode (encode i) = .ok i := by
  have hw := encode_toNat i
  cases i with
  | cls => rfl
  | jp nnn =>
    obtain ⟨hF, hnnn⟩ := fields_of_addr (f := 0x1) hw
    rw [decode_family_jp hF, hnnn]
  | ldV x nn =>
    obtain ⟨hF, hx, hnn⟩ := fields_of_reg_byte (f := 0x6) hw
    rw [decode_family_ldV hF, hx, hnn]
  | addV x nn =>
    obtain ⟨hF, hx, hnn⟩ := fields_of_reg_byte (f := 0x7) hw
    rw [decode_family_addV hF, hx, hnn]
  | ldI nnn =>
    obtain ⟨hF, hnnn⟩ := fields_of_addr (f := 0xA) hw
    rw [decode_family_ldI hF, hnnn]
  | drw x y n =>
    obtain ⟨hF, hx, hy, hn⟩ := fields_of_reg_reg_rows (f := 0xD) hw
    rw [decode_family_drw hF, hx, hy, hn]

/-- The fields of a word that decodes make up the whole word. -/
theorem encode_of_decode {w : Word} {i : Instr} (h : decode w = .ok i) : encode i = w := by
  have hF := fieldF_toNat w
  have hX := fieldX_val w
  have hY := fieldY_val w
  have hN := fieldN_val w
  have hNN := fieldNN_toNat w
  have hNNN := fieldNNN_toNat w
  apply BitVec.eq_of_toNat_eq
  rw [encode_toNat]
  obtain ⟨rfl, rfl⟩ | ⟨hf, rfl⟩ | ⟨hf, rfl⟩ | ⟨hf, rfl⟩ | ⟨hf, rfl⟩ | ⟨hf, rfl⟩ := decode_ok_cases h
  · rfl
  all_goals rw [wordNumber]; omega

theorem decodeBytes_encodeBytes (i : Instr) (rest : List Byte) :
    decodeBytes (encodeBytes i ++ rest) = .ok (i, rest) := by
  rw [encodeBytes, decodeBytes_wordBytes, decode_encode]; rfl

/-- The host's 16-bit number of a word is the word. -/
theorem tableWord_toNat (w : Word) : tableWord 16 w.toNat = w := by
  rw [tableWord, Nat.mod_eq_of_lt w.isLt, BitVec.ofNat_toNat, BitVec.setWidth_eq]

/-- Settles O5: the word is read back by the decoder, its bytes are decoded like the word, and the host's number of
the word is the word. -/
theorem decodeOfEncode : Obligations.DecodeOfEncode := by
  intro i rest
  refine ⟨decode_encode i, decodeBytes_encodeBytes i rest, ?_⟩
  have hbytes : decodeBytes (wordBytes (encode i)) = .ok (i, []) := by
    simpa [encodeBytes] using decodeBytes_encodeBytes i []
  rw [decodeTableWord, tableWord_toNat, hbytes]

/-- Settles O6. -/
theorem encodeOfDecode : Obligations.EncodeOfDecode := fun _ _ => encode_of_decode

/-- Settles O1. -/
theorem fieldsAreTheNamedBits : Obligations.FieldsAreTheNamedBits := fun w =>
  ⟨fieldF_toNat w, fieldX_val w, fieldY_val w, fieldN_val w, fieldNN_toNat w, fieldNNN_toNat w⟩

/-- Settles O7: closed words, which the decoder evaluates. -/
theorem tableWordsDecode : Obligations.TableWordsDecode := by
  unfold Obligations.TableWordsDecode
  decide

/-! ### The opcode map (R73, R74, R75) -/

/-- The mask of bits 15..12 leaves the family's nibble. -/
theorem and_mask_toNat (w : Word) : (w &&& 0xF000).toNat = (fieldF w).toNat * 4096 := by
  have happend : w &&& 0xF000 = (fieldF w ++ 0#12 : BitVec 16) := by
    apply BitVec.eq_of_getLsbD_eq
    intro i hi
    rw [BitVec.getLsbD_append]
    interval_cases i <;> simp [fieldF]
  have hnumber : (fieldF w ++ 0#12 : BitVec 16).toNat = (fieldF w).toNat <<< 12 ||| 0 := BitVec.toNat_append _ _
  rw [happend, hnumber, Nat.or_zero, Nat.shiftLeft_eq]

/-- A word that matches a row of four mask bits is of the row's family. -/
theorem family_of_and_mask {w : Word} (f : Nat) (hf : f < 16) (h : w &&& 0xF000 = BitVec.ofNat 16 (f * 4096)) :
    (fieldF w).toNat = f := by
  have hnumber := congrArg BitVec.toNat h
  rw [and_mask_toNat, BitVec.toNat_ofNat] at hnumber
  omega

theorem decode_masked_jp {w : Word} (h : w &&& 0xF000 = 0x1000) : decode w = .ok (.jp (w.setWidth 12)) := by
  rw [decode_family_jp (family_of_and_mask 0x1 (by decide) h), fieldNNN_eq_setWidth]

theorem decode_masked_ldV {w : Word} (h : w &&& 0xF000 = 0x6000) :
    decode w = .ok (.ldV (fieldX w) (w.setWidth 8)) := by
  rw [decode_family_ldV (family_of_and_mask 0x6 (by decide) h), fieldNN_eq_setWidth]

theorem decode_masked_addV {w : Word} (h : w &&& 0xF000 = 0x7000) :
    decode w = .ok (.addV (fieldX w) (w.setWidth 8)) := by
  rw [decode_family_addV (family_of_and_mask 0x7 (by decide) h), fieldNN_eq_setWidth]

theorem decode_masked_ldI {w : Word} (h : w &&& 0xF000 = 0xA000) : decode w = .ok (.ldI (w.setWidth 12)) := by
  rw [decode_family_ldI (family_of_and_mask 0xA (by decide) h), fieldNNN_eq_setWidth]

theorem decode_masked_drw {w : Word} (h : w &&& 0xF000 = 0xD000) :
    decode w = .ok (.drw (fieldX w) (fieldY w) (fieldN w)) :=
  decode_family_drw (family_of_and_mask 0xD (by decide) h)

open Laws in
/-- The word of a decoded instruction matches the instruction's row. -/
theorem row_of_decode {w : Word} {i : Instr} (h : decode w = .ok i) :
    w &&& OpcodeRow.rowMask i = OpcodeRow.rowMatch i := by
  rw [← encode_of_decode h]
  cases i with
  | cls => exact OpcodeRow.cls
  | jp nnn => exact OpcodeRow.jp nnn
  | ldV x nn => exact OpcodeRow.ldV x nn
  | addV x nn => exact OpcodeRow.addV x nn
  | ldI nnn => exact OpcodeRow.ldI nnn
  | drw x y n => exact OpcodeRow.drw x y n

/-- What holds of every instruction holds of each of the six forms. -/
theorem Instr.forall_iff {P : Instr → Prop} :
    (∀ i, P i) ↔ P .cls ∧ (∀ nnn, P (.jp nnn)) ∧ (∀ x nn, P (.ldV x nn)) ∧ (∀ x nn, P (.addV x nn)) ∧
      (∀ nnn, P (.ldI nnn)) ∧ ∀ x y n, P (.drw x y n) := by
  constructor
  · exact fun h => ⟨h _, fun _ => h _, fun _ _ => h _, fun _ _ => h _, fun _ => h _, fun _ _ _ => h _⟩
  · rintro ⟨hcls, hjp, hldV, haddV, hldI, hdrw⟩ (_ | _ | _ | _ | _ | _)
    · exact hcls
    · exact hjp _
    · exact hldV _ _
    · exact haddV _ _
    · exact hldI _
    · exact hdrw _ _ _

/-- Settles O2: a decoded word matches its row by the encoder's rows, a matching word decodes by its family, and a
word is rejected exactly when it is none of the six. -/
theorem decoderFollowsTheOpcodeMap : Obligations.DecoderFollowsTheOpcodeMap := by
  intro w
  have hcls : decode w = .ok .cls ↔ w = 0x00E0 := decode_eq_cls_iff
  have hjp : (∃ nnn, decode w = .ok (.jp nnn)) ↔ w &&& 0xF000 = 0x1000 :=
    ⟨fun ⟨_, h⟩ => row_of_decode h, fun h => ⟨_, decode_masked_jp h⟩⟩
  have hldV : (∃ x nn, decode w = .ok (.ldV x nn)) ↔ w &&& 0xF000 = 0x6000 :=
    ⟨fun ⟨_, _, h⟩ => row_of_decode h, fun h => ⟨_, _, decode_masked_ldV h⟩⟩
  have haddV : (∃ x nn, decode w = .ok (.addV x nn)) ↔ w &&& 0xF000 = 0x7000 :=
    ⟨fun ⟨_, _, h⟩ => row_of_decode h, fun h => ⟨_, _, decode_masked_addV h⟩⟩
  have hldI : (∃ nnn, decode w = .ok (.ldI nnn)) ↔ w &&& 0xF000 = 0xA000 :=
    ⟨fun ⟨_, h⟩ => row_of_decode h, fun h => ⟨_, decode_masked_ldI h⟩⟩
  have hdrw : (∃ x y n, decode w = .ok (.drw x y n)) ↔ w &&& 0xF000 = 0xD000 :=
    ⟨fun ⟨_, _, _, h⟩ => row_of_decode h, fun h => ⟨_, _, _, decode_masked_drw h⟩⟩
  have hmask : w &&& 0xFFFF = w := BitVec.and_allOnes
  refine ⟨by rw [hmask, hcls], hjp, hldV, haddV, hldI, hdrw, ?rejected⟩
  rw [decode_eq_unsupported_iff, Instr.forall_iff]
  simp only [ne_eq, ← not_exists, hcls, hjp, hldV, haddV, hldI, hdrw]

/-- A word that is not CLS's and of no family with an instruction is rejected, none of its fields examined (R74,
R75). -/
theorem decode_unsupported {w : Word} (hcls : w ≠ 0x00E0) (hfamily : (fieldF w).toNat ∉ [0x1, 0x6, 0x7, 0xA, 0xD]) :
    decode w = .error (.unsupported w) := by
  rw [decode_eq_unsupported_iff]
  intro i h
  obtain ⟨hw, -⟩ | ⟨hf, -⟩ | ⟨hf, -⟩ | ⟨hf, -⟩ | ⟨hf, -⟩ | ⟨hf, -⟩ := decode_ok_cases h
  · exact hcls hw
  all_goals rw [hf] at hfamily; exact hfamily (by decide)

/-! ### Bytes -/

/-- Bytes decode to an instruction exactly when the word of the first two does; the others are the rest (R78). -/
theorem decodeBytes_eq_ok_iff {bytes rest : List Byte} {i : Instr} :
    decodeBytes bytes = .ok (i, rest) ↔ ∃ hi lo, bytes = [hi, lo] ++ rest ∧ decode (joinBytes hi lo) = .ok i := by
  match bytes with
  | [] => simp [decodeBytes]
  | [_] => simp [decodeBytes]
  | hi :: lo :: tail => cases hd : decode (joinBytes hi lo) <;> simp [decodeBytes, hd, and_comm]

/-! ### The assembler (R79, R80) -/

/-- The line of an instruction assembles to the instruction's bytes. -/
theorem assemble_asmLine (i : Instr) : i.asmLine.assemble = i.asmLine.instr?.map encodeBytes := by
  have hfits : i.asmLine.wellFormed = true := i.wellFormed_all
  unfold AsmLine.assemble
  rw [if_pos hfits]
  cases i <;> rfl

/-- The line of an instruction is read back as the instruction: the operands fit their fields. -/
theorem instr?_asmLine (i : Instr) : i.asmLine.instr? = some i := by
  have hfits : i.asmLine.wellFormed = true := i.wellFormed_all
  unfold AsmLine.instr?
  rw [if_pos hfits]
  cases i <;> simp [Instr.asmLine]

/-- A line that is read as an instruction is that instruction's own line: its numbers are below their fields'
bounds. -/
theorem asmLine_of_instr? {l : AsmLine} {i : Instr} (h : l.instr? = some i) : i.asmLine = l := by
  unfold AsmLine.instr? at h
  split at h
  next hfits =>
    cases l with
    | cls => cases h; rfl
    | dw | db => cases h
    | jp | ldV | addV | ldI | drw =>
      cases h
      simp only [AsmLine.wellFormed, Bool.and_eq_true, decide_eq_true_eq] at hfits
      simp (disch := omega) only [Instr.asmLine, BitVec.toNat_ofNat, Fin.ofNat, Nat.mod_eq_of_lt]
  next => cases h

/-- The assembler refuses exactly the lines that do not fit. -/
theorem isSome_assemble (l : AsmLine) : l.assemble.isSome = l.wellFormed := by
  unfold AsmLine.assemble
  split
  next hfits => rw [hfits]; cases l <;> simp [AsmLine.instr?, hfits]
  next hfits => simp [hfits]

/-- Settles O8: an accepted instruction line is its instruction's line, whose bytes are the instruction's; the two
bytes of a `DW` are those of the word they are joined to. -/
theorem assemblerAcceptsWhatFits : Obligations.AssemblerAcceptsWhatFits := by
  refine ⟨isSome_assemble, ?accepted, instr?_asmLine, ?word, ?byte⟩
  case accepted =>
    intro l i h
    obtain rfl := asmLine_of_instr? h
    exact ⟨rfl, by rw [assemble_asmLine, h]; rfl⟩
  case word =>
    intro hi lo
    have hword : BitVec.ofNat 16 (hi.toNat * 256 + lo.toNat) = joinBytes hi lo := by
      rw [← joinBytes_toNat, BitVec.ofNat_toNat, BitVec.setWidth_eq]
    have hfits : (AsmLine.dw (hi.toNat * 256 + lo.toNat)).wellFormed = true := by
      simp only [AsmLine.wellFormed, decide_eq_true_eq]; omega
    simp only [AsmLine.assemble, hfits, if_true, hword, wordBytes, highByte_joinBytes, lowByte_joinBytes]
  case byte =>
    intro b
    have hfits : (AsmLine.db b.toNat).wellFormed = true := by
      simp only [AsmLine.wellFormed, decide_eq_true_eq]; omega
    simp only [AsmLine.assemble, hfits, if_true, BitVec.ofNat_toNat, BitVec.setWidth_eq]

end Sys2Proof
end

section
/-! What an instruction and a tick do, said once: the fault an instruction raises or the state it leaves when it
completes, and the three things a tick can come to. -/

namespace Sys2Proof.Machine

open State

/-! ### The fetch (40_engine.md R91) -/

theorem State.fetch_eq_some_iff {s : State} {w : Word} :
    s.fetch = some w ↔
      s.pc.toNat ≤ 0xFFE ∧ joinBytes (s.readMem s.pc.toNat) (s.readMem (s.pc.toNat + 1)) = w := by
  rw [State.fetch]
  split
  next hpast => simp [Nat.not_le.2 hpast]
  next hinside => simp [Nat.le_of_not_lt hinside]

theorem State.fetch_eq_none_iff {s : State} : s.fetch = none ↔ 0xFFE < s.pc.toNat := by
  rw [State.fetch]
  split
  next hpast => simp [hpast]
  next hinside => simp [hinside]

/-- Where PC and the two bytes at it are the same, so is the fetch. -/
theorem State.fetch_congr {s t : State} (hpc : t.pc = s.pc)
    (hbytes : s.pc.toNat ≤ 0xFFE → t.readMem s.pc.toNat = s.readMem s.pc.toNat ∧
      t.readMem (s.pc.toNat + 1) = s.readMem (s.pc.toNat + 1)) : t.fetch = s.fetch := by
  rw [State.fetch, State.fetch, hpc]
  split
  next => rfl
  next hinside =>
    obtain ⟨hhi, hlo⟩ := hbytes (Nat.le_of_not_lt hinside)
    rw [hhi, hlo]

/-! ### The meaning of an instruction -/

/-- The fault an instruction raises, if any: an unwritten read comes before the sprite range (60_exceptions.md
R154). -/
def execFault : Instr → State → Option Fault
  | .addV x _, s => if s.readableV x then none else some .unwrittenRead
  | .drw x y n, s =>
    if s.readableV x && s.readableV y && s.readableI then
      if spriteOutOfRange s.i n then some .spriteOutOfRange else none
    else some .unwrittenRead
  | _, _ => none

/-- The state an instruction leaves when it completes. -/
def execResult : Instr → State → State
  | .cls, s => s.advance.setDisp Display.blank
  | .jp nnn, s => s.advance.jump (zext16 nnn)
  | .ldV x nn, s => s.advance.writeV x nn
  | .addV x nn, s => s.advance.writeV x (addByte (s.readV x) nn)
  | .ldI nnn, s => s.advance.writeI (zext16 nnn)
  | .drw x y n, s =>
    (s.advance.setDisp (drawSprite x y n s).disp).writeV flagRegister (collisionFlag (drawSprite x y n s).collided)

/-- A meaning raises its fault, with the instruction's word, or leaves its result. -/
theorem exec_eq (i : Instr) (s : State) :
    exec i s = .next ((execFault i s).elim (execResult i s) fun f => s.raise f (some (encode i))) := by
  cases i with
  | cls | jp | ldV | ldI => rfl
  | addV x nn =>
    simp only [exec, execAddV, execFault]
    split <;> rfl
  | drw x y n =>
    simp only [exec, execDrw, execFault]
    cases s.readableV x && s.readableV y
    case false => rfl
    case true =>
      cases s.readableI
      case false => rfl
      case true => cases spriteOutOfRange s.i n <;> rfl

theorem execFault_eq_none_iff {i : Instr} {s : State} : execFault i s = none ↔ Completes i s := by
  cases i with
  | cls | jp | ldV | ldI => simp [execFault, Completes]
  | addV x nn => simp [execFault, Completes]
  | drw x y n =>
    simp only [execFault, Completes]
    split
    next hread =>
      simp only [Bool.and_eq_true] at hread
      obtain ⟨⟨hx, hy⟩, hi⟩ := hread
      simp [hx, hy, hi]
    next hread =>
      simp only [Bool.and_eq_true] at hread
      simp only [reduceCtorEq, false_iff]
      exact fun ⟨hx, hy, hi, _⟩ => hread ⟨⟨hx, hy⟩, hi⟩

theorem not_completes_of_fault {i : Instr} {s : State} {f : Fault} (h : execFault i s = some f) : ¬ Completes i s := by
  rw [← execFault_eq_none_iff, h]
  exact Option.some_ne_none f

theorem exec_of_fault {i : Instr} {s : State} {f : Fault} (h : execFault i s = some f) :
    exec i s = .next (s.raise f (some (encode i))) := by
  rw [exec_eq, h]; rfl

theorem exec_of_completes {i : Instr} {s : State} (h : Completes i s) : exec i s = .next (execResult i s) := by
  rw [exec_eq, execFault_eq_none_iff.2 h]; rfl

/-- A meaning that answers a state has raised its fault or completed. -/
theorem exec_eq_next {i : Instr} {s t : State} (h : exec i s = .next t) :
    (∃ f, execFault i s = some f ∧ t = s.raise f (some (encode i))) ∨ (Completes i s ∧ t = execResult i s) := by
  cases hf : execFault i s with
  | some f =>
    rw [exec_of_fault hf] at h
    exact .inl ⟨f, rfl, (Host.Outcome.next.inj h).symm⟩
  | none =>
    have hcomplete := execFault_eq_none_iff.1 hf
    rw [exec_of_completes hcomplete] at h
    exact .inr ⟨hcomplete, (Host.Outcome.next.inj h).symm⟩

/-- STARTED bears on no check. -/
@[simp] theorem execFault_start (i : Instr) (s : State) : execFault i s.start = execFault i s := by
  cases i <;> rfl

theorem completes_start {i : Instr} {s : State} : Completes i s.start ↔ Completes i s := by
  rw [← execFault_eq_none_iff, execFault_start, execFault_eq_none_iff]

/-- A fault writes STARTED itself. -/
@[simp] theorem State.start_raise (s : State) (f : Fault) (word : Option Word) :
    s.start.raise f word = s.raise f word := rfl

/-! ### When an instruction raises which fault (60_exceptions.md R153, R165) -/

theorem State.readableV_default {s : State} (h : s.config.strictUnwritten = false) (x : Reg) :
    s.readableV x = true := by simp [readableV, h]

theorem State.readableI_default {s : State} (h : s.config.strictUnwritten = false) : s.readableI = true := by
  simp [readableI, h]

/-- A meaning raises UnwrittenRead, in the strict model only, or SpriteOutOfRange. -/
theorem execFault_cases {i : Instr} {s : State} {f : Fault} (h : execFault i s = some f) :
    (f = .unwrittenRead ∧ s.config.strictUnwritten = true) ∨ f = .spriteOutOfRange := by
  cases i with
  | cls | jp | ldV | ldI => cases h
  | addV x nn =>
    simp only [execFault] at h
    split at h
    next => cases h
    next hread =>
      refine .inl ⟨(Option.some.inj h).symm, ?_⟩
      by_contra hdefault
      exact hread (readableV_default (by simpa using hdefault) x)
  | drw x y n =>
    simp only [execFault] at h
    split at h
    next =>
      split at h
      next => exact .inr (Option.some.inj h).symm
      next => cases h
    next hread =>
      refine .inl ⟨(Option.some.inj h).symm, ?_⟩
      by_contra hdefault
      rw [Bool.not_eq_true] at hdefault
      exact hread (by simp [readableV_default hdefault, readableI_default hdefault])

theorem execFault_addV_unwritten {s : State} {x : Reg} (nn : Byte) (hstrict : s.config.strictUnwritten = true)
    (hx : s.written.v[x] = false) : execFault (.addV x nn) s = some .unwrittenRead := by
  simp [execFault, readableV, hstrict, hx]

theorem execFault_drw_unwritten {s : State} {x y : Reg} (n : RowCount) (hstrict : s.config.strictUnwritten = true)
    (h : s.written.v[x] = false ∨ s.written.v[y] = false ∨ s.written.i = false) :
    execFault (.drw x y n) s = some .unwrittenRead := by
  obtain h | h | h := h <;> simp [execFault, readableV, readableI, hstrict, h]

/-- The operands of a draw may be read when the strict model finds them written. -/
theorem State.readable_of_written {s : State} {x y : Reg}
    (h : s.config.strictUnwritten = true → s.written.v[x] = true ∧ s.written.v[y] = true ∧ s.written.i = true) :
    s.readableV x = true ∧ s.readableV y = true ∧ s.readableI = true :=
  ⟨(readableV_iff s x).2 fun hs => (h hs).1, (readableV_iff s y).2 fun hs => (h hs).2.1,
    (readableI_iff s).2 fun hs => (h hs).2.2⟩

theorem execFault_drw_outOfRange {s : State} {x y : Reg} {n : RowCount}
    (hread : s.readableV x = true ∧ s.readableV y = true ∧ s.readableI = true) (hn : 1 ≤ n.val)
    (hrange : 0xFFF < s.i.toNat + (n.val - 1)) : execFault (.drw x y n) s = some .spriteOutOfRange := by
  obtain ⟨hx, hy, hi⟩ := hread
  have hout : spriteOutOfRange s.i n = true := (spriteOutOfRange_iff s.i n).2 ⟨hn, hrange⟩
  simp [execFault, hx, hy, hi, hout]

/-! ### What a completed instruction leaves unchanged -/

section Frame

variable (i : Instr) (s : State)

@[simp] theorem execResult_config : (execResult i s).config = s.config := by cases i <;> rfl
@[simp] theorem execResult_sp : (execResult i s).sp = s.sp := by cases i <;> rfl
@[simp] theorem execResult_stack : (execResult i s).stack = s.stack := by cases i <;> rfl
@[simp] theorem execResult_dt : (execResult i s).dt = s.dt := by cases i <;> rfl
@[simp] theorem execResult_st : (execResult i s).st = s.st := by cases i <;> rfl
@[simp] theorem execResult_mem : (execResult i s).mem = s.mem := by cases i <;> rfl
@[simp] theorem execResult_halt : (execResult i s).halt = s.halt := by cases i <;> rfl
@[simp] theorem execResult_fault : (execResult i s).fault = s.fault := by cases i <;> rfl
@[simp] theorem execResult_started : (execResult i s).started = s.started := by cases i <;> rfl

end Frame

theorem execResult_readMem (i : Instr) (s : State) (a : Nat) : (execResult i s).readMem a = s.readMem a := by
  simp [readMem]

/-- Every instruction but the jump advances PC. -/
theorem execResult_pc {i : Instr} (s : State) (h : ∀ nnn, i ≠ .jp nnn) : (execResult i s).pc = s.pc + 2 := by
  cases i with
  | jp nnn => exact absurd rfl (h nnn)
  | cls | ldV | addV | ldI | drw => rfl

theorem execResult_disp {i : Instr} (s : State) (hcls : i ≠ .cls) (hdrw : ∀ x y n, i ≠ .drw x y n) :
    (execResult i s).disp = s.disp := by
  cases i with
  | cls => exact absurd rfl hcls
  | drw x y n => exact absurd rfl (hdrw x y n)
  | jp | ldV | addV | ldI => rfl

theorem execResult_index {i : Instr} (s : State) (h : ∀ nnn, i ≠ .ldI nnn) :
    (execResult i s).i = s.i ∧ (execResult i s).written.i = s.written.i := by
  cases i with
  | ldI nnn => exact absurd rfl (h nnn)
  | cls | jp => exact ⟨rfl, rfl⟩
  | ldV | addV | drw => exact ⟨rfl, markV_i _ _⟩

/-- A write of one register leaves every other, and its WRITTEN bit. -/
theorem State.writeV_other (s : State) {x r : Reg} (h : r ≠ x) (b : Byte) :
    (s.writeV x b).readV r = s.readV r ∧ (s.writeV x b).written.v[r] = s.written.v[r] :=
  ⟨by rw [readV_writeV, if_neg h], markV_of_ne s h⟩

/-- A V register moves only as the destination of LD or ADD, or as VF of a draw. -/
theorem execResult_register {i : Instr} (s : State) {r : Reg} (hldV : ∀ nn, i ≠ .ldV r nn)
    (haddV : ∀ nn, i ≠ .addV r nn) (hdrw : r = 0xF → ∀ x y n, i ≠ .drw x y n) :
    (execResult i s).readV r = s.readV r ∧ (execResult i s).written.v[r] = s.written.v[r] := by
  cases i with
  | cls | jp => exact ⟨rfl, rfl⟩
  | ldI nnn => exact ⟨rfl, by rw [execResult, writeI_written, markI_v]; rfl⟩
  | ldV x nn => exact s.advance.writeV_other (by rintro rfl; exact hldV nn rfl) nn
  | addV x nn => exact s.advance.writeV_other (by rintro rfl; exact haddV nn rfl) _
  | drw x y n => exact (s.advance.setDisp _).writeV_other (by rintro rfl; exact hdrw rfl x y n rfl) _

/-! ### The tick -/

/-- A tick of a core that is not halted at a word that is no instruction. -/
theorem step_unsupported {s : State} {w : Word} (hhalt : s.halt = false) (hfetch : s.fetch = some w)
    (hdecode : ∀ i, decode w ≠ .ok i) : step s = .next (s.raise .unsupportedOpcode (some w)) := by
  rw [step_fetch_some hhalt hfetch, dispatchWord, decode_eq_unsupported_iff.2 hdecode]; rfl

/-- A tick of a core that is not halted at an instruction's word. -/
theorem step_decoded {s : State} {w : Word} {i : Instr} (hhalt : s.halt = false) (hfetch : s.fetch = some w)
    (hdecode : decode w = .ok i) : step s = exec i s.start := by
  rw [step_fetch_some hhalt hfetch, dispatchWord, hdecode]

theorem step_execFault {s : State} {w : Word} {i : Instr} {f : Fault} (hhalt : s.halt = false)
    (hfetch : s.fetch = some w) (hdecode : decode w = .ok i) (hfault : execFault i s = some f) :
    step s = .next (s.raise f (some w)) := by
  rw [step_decoded hhalt hfetch hdecode, exec_of_fault (by rwa [execFault_start]), encode_of_decode hdecode,
    start_raise]

theorem step_completes {s : State} {w : Word} {i : Instr} (hhalt : s.halt = false) (hfetch : s.fetch = some w)
    (hdecode : decode w = .ok i) (hcomplete : Completes i s) : step s = .next (execResult i s.start) := by
  rw [step_decoded hhalt hfetch hdecode, exec_of_completes (completes_start.2 hcomplete)]

/-- What a tick comes to: nothing at a halted core, a fault that names the word a fetch reads, or the result of the
instruction at PC. -/
theorem step_outcome {s t : State} (h : step s = .next t) :
    (s.halt = true ∧ t = s) ∨
    (s.halt = false ∧ ∃ f, t = s.raise f s.fetch ∧ (f = .fetchOutOfRange ↔ s.fetch = none) ∧
      (f = .unwrittenRead → s.config.strictUnwritten = true)) ∨
    (s.halt = false ∧ ∃ w i, s.fetch = some w ∧ decode w = .ok i ∧ Completes i s ∧ t = execResult i s.start) := by
  obtain ⟨hhalt, rfl⟩ | ⟨hhalt, hfetch, rfl⟩ | ⟨w, r, hhalt, hfetch, -, rfl⟩ | ⟨w, i, hhalt, hfetch, hdecode, hexec⟩ :=
    step_cases h
  · exact .inl ⟨hhalt, rfl⟩
  · exact .inr (.inl ⟨hhalt, .fetchOutOfRange, by rw [hfetch, start_raise], by simp [hfetch], by simp⟩)
  · exact .inr (.inl ⟨hhalt, .unsupportedOpcode, by rw [hfetch, start_raise], by simp [hfetch], by simp⟩)
  · obtain ⟨f, hfault, rfl⟩ | ⟨hcomplete, rfl⟩ := exec_eq_next hexec
    · rw [execFault_start] at hfault
      refine .inr (.inl ⟨hhalt, f, by rw [hfetch, encode_of_decode hdecode, start_raise], ?_⟩)
      obtain ⟨rfl, hstrict⟩ | rfl := execFault_cases hfault
      · exact ⟨by simp [hfetch], fun _ => hstrict⟩
      · exact ⟨by simp [hfetch], by simp⟩
    · exact .inr (.inr ⟨hhalt, w, i, hfetch, hdecode, completes_start.1 hcomplete, rfl⟩)

/-! ### `tick_result` (40_engine.md R97) -/

theorem tickResult_halted {s : State} (h : s.halt = true) (t : State) : tickResult s t = .halted := by
  simp [tickResult, h]

theorem tickResult_ok {s t : State} (hs : s.halt = false) (ht : t.halt = false) : tickResult s t = .ok := by
  simp [tickResult, hs, ht]

theorem tickResult_raise {s : State} (h : s.halt = false) (f : Fault) (word : Option Word) :
    tickResult s (s.raise f word) = .fault { fault := f, word := word, pc := s.pc } := by
  simp [tickResult, h]

/-- A tick that raises a fault has it as its result. -/
theorem tickResult_of_step_raise {s t : State} {f : Fault} {word : Option Word} (hhalt : s.halt = false)
    (hraise : step s = .next (s.raise f word)) (h : step s = .next t) :
    tickResult s t = .fault { fault := f, word := word, pc := s.pc } := by
  obtain rfl : s.raise f word = t := Host.Outcome.next.inj (hraise.symm.trans h)
  exact tickResult_raise hhalt f word

/-- A tick that completes an instruction has the result `ok`. -/
theorem tickResult_execResult {s : State} (h : s.halt = false) (i : Instr) :
    tickResult s (execResult i s.start) = .ok :=
  tickResult_ok h (by simpa using h)

/-! ### Runs -/

/-- A state that a tick leaves as it is stays for any number of ticks. -/
theorem run_of_step_self {s : State} (h : step s = .next s) (k : Nat) : Sys2Proof.core.run k s = .next s := by
  induction k with
  | zero => rfl
  | succ k ih =>
    have hstep : Sys2Proof.core.step s = .next s := h
    simp only [Host.Core.run, hstep, ih]

end Sys2Proof.Machine
end

section
/-! The statements about the tick (40_engine.md, 60_exceptions.md) and about the instructions with a register or PC
as destination (41_control.md, 42_registers.md). -/

namespace Sys2Proof.Machine

open State

/-! ### Fetch and dispatch -/

/-- Settles O50. -/
theorem instructionsAreTwoBytes : Obligations.InstructionsAreTwoBytes := by
  refine ⟨?consumed, fun _ => rfl, ?fetched⟩
  case consumed =>
    intro bytes rest i h
    obtain ⟨hi, lo, hbytes, hdecode⟩ := decodeBytes_eq_ok_iff.1 h
    exact ⟨hi, lo, hbytes, fun rest' => decodeBytes_eq_ok_iff.2 ⟨hi, lo, rfl, hdecode⟩⟩
  case fetched =>
    intro s t w hfetch hpc hhi hlo
    exact ⟨(fetch_eq_some_iff.1 hfetch).2.symm, (fetch_congr hpc fun _ => ⟨hhi, hlo⟩).trans hfetch⟩

/-- Settles O10. -/
theorem fetchIsBigEndian : Obligations.FetchIsBigEndian := by
  refine fun s => ⟨fun hpc => ?inside, fun hpc => ?past⟩
  case inside =>
    have hfetch : s.fetch = some (joinBytes (s.readMem s.pc.toNat) (s.readMem (s.pc.toNat + 1))) :=
      fetch_eq_some_iff.2 ⟨hpc, rfl⟩
    exact ⟨_, hfetch, hfetch, joinBytes_toNat _ _⟩
  case past =>
    have hfetch : s.fetch = none := fetch_eq_none_iff.2 hpc
    exact ⟨hfetch, hfetch⟩

/-- Settles O9: the two bytes at PC are the fetched word. -/
theorem stepRunsTheDecodedInstruction : Obligations.StepRunsTheDecodedInstruction := by
  intro s i hhalt hpc hbytes
  obtain ⟨hi, lo, hpair, hdecode⟩ := decodeBytes_eq_ok_iff.1 hbytes
  obtain ⟨rfl, rfl⟩ : s.readMem s.pc.toNat = hi ∧ s.readMem (s.pc.toNat + 1) = lo := by simpa using hpair
  exact step_decoded hhalt (fetch_eq_some_iff.2 ⟨hpc, rfl⟩) hdecode

/-- Settles O11. -/
theorem fetchPastTheEndFaults : Obligations.FetchPastTheEndFaults := fun _ hhalt hpc =>
  ⟨_, step_fetch_none hhalt (fetch_eq_none_iff.2 hpc), rfl, tickResult_raise hhalt _ _⟩

/-- Settles O12: the fetch answers a word or not, the word decodes or not, and every meaning answers a state. -/
theorem everyTickAnswersNext : Obligations.EveryTickAnswersNext := by
  intro s
  cases hhalt : s.halt with
  | true => exact ⟨s, step_halted hhalt⟩
  | false =>
    cases hfetch : s.fetch with
    | none => exact ⟨_, step_fetch_none hhalt hfetch⟩
    | some w =>
      cases hdecode : decode w with
      | ok i => exact ⟨_, (step_decoded hhalt hfetch hdecode).trans (exec_eq i _)⟩
      | error r => exact ⟨_, step_unsupported hhalt hfetch (by simp [hdecode])⟩

/-- Settles O13. -/
theorem haltedTicksChangeNothing : Obligations.HaltedTicksChangeNothing := fun s k hhalt =>
  ⟨run_of_step_self (step_halted hhalt) k, tickResult_halted hhalt s⟩

/-- A tick at a word that is no instruction answers a state, with UnsupportedOpcode as its result. -/
theorem unsupported_tick_faults {w : Word} (hdecode : decode w = .error (.unsupported w)) (s : State)
    (hhalt : s.halt = false) (hfetch : s.fetch = some w) :
    ∃ t, step s = .next t ∧
      tickResult s t = .fault { fault := .unsupportedOpcode, word := some w, pc := s.pc } :=
  ⟨_, step_unsupported hhalt hfetch (decode_eq_unsupported_iff.1 hdecode), tickResult_raise hhalt _ _⟩

/-- Settles O3. -/
theorem familyZeroHoldsOnlyClear : Obligations.FamilyZeroHoldsOnlyClear := by
  refine fun w hw => ⟨fun hclear => ?clear, fun hother => ?other⟩
  case clear =>
    have hdecode : decode w = .ok .cls := decode_eq_cls_iff.2 hclear
    refine ⟨hdecode, fun s hhalt hfetch => ?_⟩
    exact ⟨execResult .cls s.start, step_completes hhalt hfetch hdecode trivial, tickResult_execResult hhalt .cls,
      fun x y _ _ => Display.cell_blank x y⟩
  case other =>
    have hfamily : (fieldF w).toNat = 0 := by rw [fieldF_toNat]; omega
    have hdecode := decode_unsupported hother (by rw [hfamily]; decide)
    exact ⟨hdecode, unsupported_tick_faults hdecode⟩

/-- Settles O4: none of the ten families is family 0x0, which holds the word of CLS, or one of the five with a row.
-/
theorem unsupportedFamiliesAlwaysFail : Obligations.UnsupportedFamiliesAlwaysFail := by
  intro w hw
  have hcls : w ≠ 0x00E0 := by rintro rfl; exact absurd hw (by decide)
  have hfamily : (fieldF w).toNat ∉ [0x1, 0x6, 0x7, 0xA, 0xD] := by
    generalize (fieldF w).toNat = f at hw ⊢
    simp only [List.mem_cons, List.not_mem_nil, or_false] at hw ⊢
    omega
  exact ⟨decode_unsupported hcls hfamily, unsupported_tick_faults (decode_unsupported hcls hfamily)⟩

/-! ### What a tick comes to -/

/-- Settles O14: of the three outcomes of a tick only the fault ends halted. -/
theorem faultsArePrecise : Obligations.FaultsArePrecise := by
  intro s t hhalt h hhalted
  obtain ⟨hs, -⟩ | ⟨-, f, rfl, -, -⟩ | ⟨-, w, i, -, -, -, rfl⟩ := step_outcome h
  · simp [hs] at hhalt
  · exact ⟨_, rfl, rfl, rfl, tickResult_raise hhalt f s.fetch⟩
  · simp [hhalt] at hhalted

/-- Settles O15: a tick that does not end halted has completed an instruction. -/
theorem completedTicksWriteOnlyTheirState : Obligations.CompletedTicksWriteOnlyTheirState := by
  intro s t hhalt h hrunning
  obtain ⟨hs, -⟩ | ⟨-, f, rfl, -, -⟩ | ⟨-, w, i, hfetch, hdecode, -, rfl⟩ := step_outcome h
  · simp [hs] at hhalt
  · simp at hrunning
  · refine ⟨w, i, hfetch, hdecode, execResult_started i _, execResult_fault i _, execResult_config i _,
      execResult_mem i _, execResult_sp i _, execResult_stack i _, execResult_dt i _, execResult_st i _,
      ?_, execResult_pc _, execResult_index _, execResult_disp _, fun r => execResult_register _⟩
    rintro nnn rfl
    rfl

/-- Settles O17: HALT and FAULT are written together, and by the faulting tick alone. -/
theorem tickResultSaysWhatHappened : Obligations.TickResultSaysWhatHappened := by
  intro s t h
  obtain ⟨hs, rfl⟩ | ⟨hs, f, rfl, -, -⟩ | ⟨hs, w, i, -, -, -, rfl⟩ := step_outcome h
  · simp [tickResult_halted hs, hs]
  · simp [tickResult_raise hs, hs]
  · simp [tickResult_execResult hs, hs]

/-- Settles O33. -/
theorem unwrittenReadIsStrictOnly : Obligations.UnwrittenReadIsStrictOnly := by
  intro s t hdefault hhalt h r hr
  obtain ⟨hs, -⟩ | ⟨-, f, rfl, -, hunwritten⟩ | ⟨-, w, i, -, -, -, rfl⟩ := step_outcome h
  · simp [hs] at hhalt
  · rw [tickResult_raise hhalt] at hr
    obtain rfl := TickResult.fault.inj hr
    exact fun hf => by simp [hunwritten hf] at hdefault
  · simp [tickResult_execResult hhalt] at hr

/-- Settles O16: each cause in turn decides the one state a tick answers. -/
theorem faultCausesInOrder : Obligations.FaultCausesInOrder := by
  intro s t hhalt h
  refine ⟨fun hpc => ?fetch, fun w hfetch => ⟨fun hdecode => ?dispatch, fun x nn hdecode hstrict hx => ?addRead,
    fun x y n hdecode hstrict hunwritten => ?drawRead, fun x y n hdecode hwritten hn hrange => ?range,
    fun i hdecode hcomplete => ?completes⟩⟩
  case fetch => exact tickResult_of_step_raise hhalt (step_fetch_none hhalt (fetch_eq_none_iff.2 hpc)) h
  case dispatch => exact tickResult_of_step_raise hhalt (step_unsupported hhalt hfetch hdecode) h
  case addRead =>
    exact tickResult_of_step_raise hhalt
      (step_execFault hhalt hfetch hdecode (execFault_addV_unwritten nn hstrict hx)) h
  case drawRead =>
    exact tickResult_of_step_raise hhalt
      (step_execFault hhalt hfetch hdecode (execFault_drw_unwritten n hstrict hunwritten)) h
  case range =>
    exact tickResult_of_step_raise hhalt
      (step_execFault hhalt hfetch hdecode (execFault_drw_outOfRange (readable_of_written hwritten) hn hrange)) h
  case completes =>
    obtain rfl := Host.Outcome.next.inj ((step_completes hhalt hfetch hdecode hcomplete).symm.trans h)
    exact tickResult_execResult hhalt i

/-! ### Where PC goes -/

/-- Two bytes on is another address. -/
theorem add_two_ne (w : Word) : w + 2 ≠ w := by bv_omega

/-- A self-jump of a started core is a fixed point of the tick (40_engine.md R101). -/
theorem step_self_jump {s : State} {nnn : Addr12} (hhalt : s.halt = false) (hstarted : s.started = true)
    (hpc : zext16 nnn = s.pc) (hfetch : s.fetch = some (encode (.jp nnn))) : step s = .next s := by
  have hresult : execResult (.jp nnn) s.start = s := by rw [start_of_started s hstarted, execResult, hpc]; rfl
  rw [step_completes hhalt hfetch (decode_encode _) trivial, hresult]

/-- Settles O18: a fault sets HALT and every other instruction moves PC. -/
theorem onlyTheSelfJumpIsFixed : Obligations.OnlyTheSelfJumpIsFixed := by
  refine fun s hhalt hstarted => ⟨fun h => ?_, fun ⟨nnn, hpc, hfetch⟩ => step_self_jump hhalt hstarted hpc hfetch⟩
  obtain ⟨hs, -⟩ | ⟨-, f, ht, -, -⟩ | ⟨-, w, i, hfetch, hdecode, -, ht⟩ := step_outcome h
  · simp [hs] at hhalt
  · simpa [hhalt] using congrArg State.halt ht
  · have hpc : s.pc = (execResult i s.start).pc := congrArg State.pc ht
    by_cases hjump : ∃ nnn, i = .jp nnn
    · obtain ⟨nnn, rfl⟩ := hjump
      exact ⟨nnn, hpc.symm, by rw [hfetch, encode_of_decode hdecode]⟩
    · rw [execResult_pc _ fun nnn hi => hjump ⟨nnn, hi⟩] at hpc
      exact absurd hpc.symm (add_two_ne _)

/-- Settles O19. -/
theorem goodEndsAreStable : Obligations.GoodEndsAreStable := by
  rintro s k ⟨hhalt, nnn, hpc, hfetch⟩ hstarted
  exact ⟨run_of_step_self (step_self_jump hhalt hstarted hpc hfetch) k, tickResult_ok hhalt hhalt⟩

/-- Settles O49: PC moves by a jump, whose target is at most 0xFFF, or by two from an address that a word was
fetched from. -/
theorem pcPastTheLastFetch : Obligations.PcPastTheLastFetch := by
  intro s t h hmoved
  obtain ⟨-, rfl⟩ | ⟨-, f, rfl, -, -⟩ | ⟨-, w, i, hfetch, hdecode, -, rfl⟩ := step_outcome h
  · exact absurd rfl hmoved
  · exact absurd rfl hmoved
  · have hfrom : s.pc.toNat ≤ 0xFFE := pc_le_of_fetch hfetch
    by_cases hjump : ∃ nnn, i = .jp nnn
    · obtain ⟨nnn, rfl⟩ := hjump
      have hpc : (execResult (.jp nnn) s.start).pc.toNat = nnn.toNat := zext16_toNat nnn
      refine ⟨fun hlast => ⟨w, _, hfetch, hdecode, .inl ?_⟩, fun hpast => ?_⟩
      · rw [hlast] at hpc
        rw [BitVec.eq_of_toNat_eq (y := 0xFFF) hpc.symm]
      · rw [hpast] at hpc
        have hpast' : nnn.toNat = 0x1000 := hpc.symm
        omega
    · have hother : ∀ nnn, i ≠ .jp nnn := fun nnn hi => hjump ⟨nnn, hi⟩
      rw [execResult_pc _ hother, start_pc]
      exact ⟨fun hlast => ⟨w, i, hfetch, hdecode, .inr ⟨by bv_omega, hother⟩⟩,
        fun hpast => ⟨by bv_omega, w, i, hfetch, hdecode, hother⟩⟩

/-! ### The instructions with a register or PC as destination -/

/-- Settles O21. -/
theorem jumpSetsPcToItsTarget : Obligations.JumpSetsPcToItsTarget := by
  refine ⟨fun _ => decode_masked_jp, fun nnn s => ?effect⟩
  refine ⟨execResult (.jp nnn) s, rfl, rfl, zext16_toNat nnn, ?last, ?unsupported⟩
  case last =>
    rintro hhalt rfl
    have hrunning : (execResult (.jp 0xFFF) s).halt = false := hhalt
    have hpc : (execResult (.jp 0xFFF) s).pc = 0xFFF := rfl
    have hfetch : (execResult (.jp 0xFFF) s).fetch = none := fetch_eq_none_iff.2 (by rw [hpc]; decide)
    exact ⟨_, step_fetch_none hrunning hfetch, tickResult_raise hrunning _ _⟩
  case unsupported =>
    intro hhalt w hfetch hdecode
    have hrunning : (execResult (.jp nnn) s).halt = false := hhalt
    exact ⟨_, step_unsupported hrunning hfetch hdecode, tickResult_raise hrunning _ _⟩

/-- Settles O22. -/
theorem loadImmediateSetsRegister : Obligations.LoadImmediateSetsRegister :=
  ⟨fun _ => decode_masked_ldV, fun x nn s => ⟨execResult (.ldV x nn) s, rfl, readV_writeV_self _ x nn,
    fun _ hr => (s.advance.writeV_other hr nn).1, rfl⟩⟩

/-- Settles O23. -/
theorem addImmediateWrapsWithoutFlag : Obligations.AddImmediateWrapsWithoutFlag := by
  refine ⟨fun _ => decode_masked_addV, fun x nn s => ⟨fun hwritten => ?completes, fun hstrict hx => ?faults⟩⟩
  case completes =>
    have hread : Completes (.addV x nn) s := (readableV_iff s x).2 hwritten
    refine ⟨execResult (.addV x nn) s, exec_of_completes hread, ?_, fun _ hr => (s.advance.writeV_other hr _).1, rfl⟩
    rw [execResult, readV_writeV_self, addByte_toNat]
  case faults => exact exec_of_fault (execFault_addV_unwritten nn hstrict hx)

/-- Settles O24: the loaded I may be read by the draw that follows, whose range check then fails. -/
theorem loadIndexSetsI : Obligations.LoadIndexSetsI := by
  refine ⟨fun _ => decode_masked_ldI, fun nnn s => ⟨execResult (.ldI nnn) s, rfl, zext16_toNat nnn, ?bound, rfl, ?draw⟩⟩
  case bound =>
    have hindex : (execResult (.ldI nnn) s).i.toNat = nnn.toNat := zext16_toNat nnn
    omega
  case draw =>
    intro x y n hx hy hn hrange
    have hindex : (execResult (.ldI nnn) s).i.toNat = nnn.toNat := zext16_toNat nnn
    exact exec_of_fault (execFault_drw_outOfRange ⟨hx, hy, readableI_writeI s.advance _⟩ hn (by rwa [hindex]))

/-- Settles O31. -/
theorem frameOfRegisterInstructions : Obligations.FrameOfRegisterInstructions := by
  intro i s t hcls hdrw h
  obtain ⟨f, hfault, rfl⟩ | ⟨-, rfl⟩ := exec_eq_next h
  · have hfaults : ¬ Completes i s := not_completes_of_fault hfault
    exact ⟨fun _ _ _ => ⟨rfl, rfl⟩, fun _ => ⟨rfl, rfl⟩, fun _ => rfl, rfl, rfl, rfl, rfl, rfl, rfl,
      fun hcomplete => absurd hcomplete hfaults⟩
  · exact ⟨fun r hldV haddV => execResult_register s hldV haddV fun _ => hdrw, execResult_index s,
      execResult_readMem i s, execResult_disp s hcls hdrw, execResult_sp i s, execResult_stack i s,
      execResult_dt i s, execResult_st i s, execResult_config i s,
      fun _ => ⟨execResult_halt i s, execResult_fault i s, execResult_started i s⟩⟩

end Sys2Proof.Machine
end

section
/-! The display instructions (43_display.md): the draw as an exclusive or with the clipped sprite, what it reads,
and its faults. -/

namespace Sys2Proof.Machine

open State

/-! ### The draw, cell by cell -/

/-- The clipped sprite's bit at a cell: the s(px, py) of R138, as the draw loop computes it. -/
def spriteCell (s : State) (x y : Reg) (n : RowCount) (px py : Nat) : Bool :=
  spriteBit s (startColumn (s.readV x)) (startRow (s.readV y)) n.val 0 px py

theorem inRows_iff {y0 left n y : Nat} : inRows y0 left n y = true ↔ y0 + n ≤ y ∧ y < y0 + n + left ∧ y < 32 :=
  decide_eq_true_iff

theorem inColumns_iff {x0 left k x : Nat} :
    inColumns x0 left k x = true ↔ x0 + k ≤ x ∧ x < x0 + k + left ∧ x < 64 :=
  decide_eq_true_iff

/-- The loop's bit at a cell is the specification's: column and row of the cell within the sprite are unique. -/
theorem spriteLights_iff {s : State} {x y : Reg} {n : RowCount} {px py : Nat} :
    spriteLights s x y n px py ↔ spriteCell s x y n px py = true := by
  simp only [spriteLights, spriteCell, spriteBit, spriteColumn, spriteAddress, startColumn, startRow, Bool.and_eq_true,
    inRows_iff, inColumns_iff]
  constructor
  · rintro ⟨hx, hy, k, row, hk, hrow, rfl, rfl, hbit⟩
    refine ⟨⟨by omega, by omega⟩, ?_⟩
    rwa [Nat.add_sub_cancel_left, Nat.add_sub_cancel_left]
  · rintro ⟨⟨hrows, hcolumns⟩, hbit⟩
    exact ⟨by omega, by omega, px - (s.readV x).toNat % 64, py - (s.readV y).toNat % 32, by omega, by omega, by omega,
      by omega, hbit⟩

theorem drawSprite_cell (s : State) (x y : Reg) (n : RowCount) (px py : Nat) :
    (drawSprite x y n s).disp.cell px py = (s.disp.cell px py ^^ spriteCell s x y n px py) :=
  drawRows_cell ..

theorem drawSprite_collided (s : State) (x y : Reg) (n : RowCount) :
    (drawSprite x y n s).collided = true ↔ ∃ px py, spriteCell s x y n px py = true ∧ s.disp.cell px py = true := by
  rw [drawSprite, drawRows_collided]
  exact or_iff_right Bool.false_ne_true

/-- A draw turns a cell off exactly when it collides. -/
theorem drawSprite_collided_iff_cell_off (s : State) (x y : Reg) (n : RowCount) :
    (drawSprite x y n s).collided = true ↔
      ∃ px py, s.disp.cell px py = true ∧ (drawSprite x y n s).disp.cell px py = false := by
  simp only [drawSprite_collided, drawSprite_cell]
  refine exists_congr fun px => exists_congr fun py => ?_
  cases s.disp.cell px py <;> simp

/-- The sprite depends on the coordinates, on I and on the bytes of memory. -/
theorem spriteCell_congr {s t : State} {x y : Reg} (hx : t.readV x = s.readV x) (hy : t.readV y = s.readV y)
    (hi : t.i = s.i) (hmem : ∀ a, t.readMem a = s.readMem a) (n : RowCount) (px py : Nat) :
    spriteCell t x y n px py = spriteCell s x y n px py := by
  simp only [spriteCell, spriteBit, hx, hy, hi, hmem]

/-- A draw executes when its operands may be read and its sprite lies in memory. -/
theorem completes_drw {s : State} {x y : Reg} {n : RowCount}
    (hread : s.readableV x = true ∧ s.readableV y = true ∧ s.readableI = true)
    (hrange : 1 ≤ n.val → s.i.toNat + (n.val - 1) ≤ 0xFFF) : Completes (.drw x y n) s := by
  obtain ⟨hx, hy, hi⟩ := hread
  refine ⟨hx, hy, hi, ?_⟩
  rw [← Bool.not_eq_true, spriteOutOfRange_iff]
  omega

theorem readV_flag_drw (x y : Reg) (n : RowCount) (s : State) :
    (execResult (.drw x y n) s).readV 0xF = collisionFlag (drawSprite x y n s).collided :=
  readV_writeV_self _ flagRegister _

theorem collisionFlag_eq_one_iff {collided : Bool} : collisionFlag collided = 0x01 ↔ collided = true := by
  cases collided <;> decide

/-- Settles O25: the draw is an exclusive or with the sprite, so a cell that goes off is one that collides. -/
theorem drawXorsTheClippedSprite : Obligations.DrawXorsTheClippedSprite := by
  intro x y n s hwritten hrange
  have hcell := drawSprite_cell s x y n
  have hflag := readV_flag_drw x y n s
  have hoff := drawSprite_collided_iff_cell_off s x y n
  refine ⟨execResult (.drw x y n) s, exec_of_completes (completes_drw (readable_of_written hwritten) hrange),
    fun px py _ _ => ⟨fun hlit => ?lit, fun hunlit => ?unlit⟩, fun hturnedOff => ?collision, fun hkept => ?noCollision,
    fun r hr => (State.writeV_other _ hr _).1, rfl⟩
  case lit => exact (hcell px py).trans (by rw [spriteLights_iff.1 hlit, Bool.xor_true])
  case unlit =>
    rw [spriteLights_iff, Bool.not_eq_true] at hunlit
    exact (hcell px py).trans (by rw [hunlit, Bool.xor_false])
  case collision => rw [hflag, hoff.2 hturnedOff]; rfl
  case noCollision =>
    have hnone : (drawSprite x y n s).collided = false := by
      rw [← Bool.not_eq_true, hoff]
      rintro ⟨px, py, hon, hgone⟩
      exact absurd ((hkept px py hon).symm.trans hgone) (by decide)
    rw [hflag, hnone]; rfl

/-- Without rows a draw leaves the framebuffer and collides with nothing (R139). -/
theorem execResult_drw_no_rows (x y : Reg) (s : State) :
    execResult (.drw x y 0) s = { s with v := s.v.set 0xF 0x00, pc := s.pc + 2, written := s.markV 0xF } := rfl

/-- Settles O26: the range check asks for a row, so it does not fail. -/
theorem drawOfNoRowsOnlyClearsVf : Obligations.DrawOfNoRowsOnlyClearsVf := by
  intro x y s hwritten
  rw [← execResult_drw_no_rows]
  exact exec_of_completes (completes_drw (readable_of_written hwritten) fun hn => absurd hn (by decide))

/-- Settles O27. -/
theorem spriteOutOfRangeFaults : Obligations.SpriteOutOfRangeFaults := fun _ _ _ _ hwritten hn hrange =>
  exec_of_fault (execFault_drw_outOfRange (readable_of_written hwritten) hn hrange)

/-- Settles O28. -/
theorem unwrittenDrawOperandsFault : Obligations.UnwrittenDrawOperandsFault := fun _ _ n _ hstrict hunwritten =>
  exec_of_fault (execFault_drw_unwritten n hstrict hunwritten)

/-! ### Drawing twice -/

/-- A draw leaves its own operands as they were, unless one is VF. -/
theorem drw_keeps_operand (x y : Reg) (n : RowCount) (s : State) {r : Reg} (hr : r ≠ 0xF) :
    (execResult (.drw x y n) s).readV r = s.readV r :=
  (State.writeV_other _ hr _).1

/-- A draw that completes completes again: writing VF makes no register unreadable, and I stays. -/
theorem completes_drw_again {x y : Reg} {n : RowCount} {s : State} (h : Completes (.drw x y n) s) :
    Completes (.drw x y n) (execResult (.drw x y n) s) := by
  obtain ⟨hx, hy, hi, hrange⟩ := h
  refine ⟨?_, ?_, ?_, hrange⟩
  · rw [execResult, readableV_writeV]; simp [hx]
  · rw [execResult, readableV_writeV]; simp [hy]
  · rw [execResult, readableI_writeV]; exact hi

/-- Settles O29: both draws use the same sprite, so the second exclusive or undoes the first, and it collides where
the first lit a cell. -/
theorem drawingTwiceRestoresTheFramebuffer : Obligations.DrawingTwiceRestoresTheFramebuffer := by
  intro x y n s t u hx hy hcomplete ht hu
  rw [exec_of_completes hcomplete] at ht
  obtain rfl := Host.Outcome.next.inj ht
  rw [exec_of_completes (completes_drw_again hcomplete)] at hu
  obtain rfl := Host.Outcome.next.inj hu
  have hsprite : ∀ px py, spriteCell (execResult (.drw x y n) s) x y n px py = spriteCell s x y n px py :=
    spriteCell_congr (drw_keeps_operand x y n s hx) (drw_keeps_operand x y n s hy) rfl (fun _ => rfl) n
  have hfirst : ∀ px py, (execResult (.drw x y n) s).disp.cell px py =
      (s.disp.cell px py ^^ spriteCell s x y n px py) := drawSprite_cell s x y n
  constructor
  · refine Display.ext_cell fun px py _ _ => (drawSprite_cell _ x y n px py).trans ?_
    rw [hsprite, hfirst, Bool.xor_assoc, Bool.xor_self, Bool.xor_false]
  · rw [readV_flag_drw, collisionFlag_eq_one_iff, drawSprite_collided]
    refine exists_congr fun px => exists_congr fun py => ?_
    rw [hsprite, hfirst, spriteLights_iff]
    cases spriteCell s x y n px py <;> simp

/-! ### What CLS and DRW leave unchanged -/

/-- Settles O32. -/
theorem frameOfDisplayInstructions : Obligations.FrameOfDisplayInstructions := by
  intro i s t hi h
  obtain ⟨f, hfault, rfl⟩ | ⟨hcomplete, rfl⟩ := exec_eq_next h
  · have hfaults : ¬ Completes i s := not_completes_of_fault hfault
    exact ⟨fun _ _ => ⟨rfl, rfl⟩, rfl, rfl, fun _ => rfl, rfl, rfl, rfl, rfl, rfl,
      fun hcomplete => absurd hcomplete hfaults, fun _ => ⟨rfl, rfl, rfl⟩⟩
  · have hldI : ∀ nnn, i ≠ .ldI nnn := by rintro nnn rfl; simp at hi
    obtain ⟨hindex, hbit⟩ := execResult_index s hldI
    refine ⟨fun r hr => execResult_register s ?notLdV ?notAddV ?notVfOfDraw, hindex, hbit, execResult_readMem i s,
      execResult_sp i s, execResult_stack i s, execResult_dt i s, execResult_st i s, execResult_config i s,
      fun _ => ⟨execResult_halt i s, execResult_fault i s, execResult_started i s⟩,
      fun hfaults => absurd hcomplete hfaults⟩
    case notLdV => rintro nn rfl; simp at hi
    case notAddV => rintro nn rfl; simp at hi
    case notVfOfDraw => rintro hflag x y n rfl; simp [hflag] at hr

end Sys2Proof.Machine
end

section
/-! What an instruction and a tick do not depend on: the bytes they do not read, and, where no unwritten register is
read, the strict model's bits (20_memory.md, 60_exceptions.md R165). -/

namespace Sys2Proof.Machine

open State

/-! ### What a draw reads -/

/-- The row loop depends on memory through the bytes of the rows above the bottom edge (43_display.md R135). -/
theorem drawRows_congr {s t : State} {x0 y0 left n : Nat} (hi : t.i = s.i)
    (hbytes : ∀ row, row < n + left → y0 + row ≤ 31 →
      t.readMem (spriteAddress s.i row) = s.readMem (spriteAddress s.i row)) (d : Drawing) :
    drawRows t x0 y0 left n d = drawRows s x0 y0 left n d := by
  induction left generalizing n d with
  | zero => rfl
  | succ left ih =>
    simp only [drawRows]
    split
    next => rfl
    next hdrawn =>
      rw [hi, hbytes n (by omega) (by omega)]
      exact ih (fun row hrow => hbytes row (by omega)) _

theorem drawSprite_congr {s t : State} {x y : Reg} {n : RowCount} (hv : t.v = s.v) (hi : t.i = s.i)
    (hdisp : t.disp = s.disp)
    (hbytes : ∀ row, row < n.val → startRow (s.readV y) + row ≤ 31 →
      t.readMem (spriteAddress s.i row) = s.readMem (spriteAddress s.i row)) :
    drawSprite x y n t = drawSprite x y n s := by
  simp only [drawSprite, readV, hv, hdisp]
  exact drawRows_congr hi (fun row hrow => hbytes row (by omega)) _

/-- The addresses an instruction reads when it completes: those of the rows that a draw does not clip. -/
def execReads : Instr → State → Nat → Prop
  | .drw _ y n, s, a => ∃ row, row < n.val ∧ startRow (s.readV y) + row ≤ 31 ∧ a = spriteAddress s.i row
  | _, _, _ => False

/-- A completing instruction reads inside memory (43_display.md R133). -/
theorem execReads_le {i : Instr} {s : State} {a : Nat} (hcomplete : Completes i s) (ha : execReads i s a) :
    a ≤ 0xFFF := by
  cases i with
  | cls | jp | ldV | addV | ldI => exact ha.elim
  | drw x y n =>
    obtain ⟨-, -, -, hrange⟩ := hcomplete
    obtain ⟨row, hrow, -, rfl⟩ := ha
    exact spriteAddress_lt hrange hrow

/-! ### Changes of state that the checks do not see -/

/-- A change of state that commutes with fault entry, keeps what an instruction's checks answer and commutes with
its result commutes with its meaning. -/
theorem exec_commutes {g : State → State} {i : Instr} {s t : State} (h : exec i s = .next t)
    (hraise : ∀ f word, (g s).raise f word = g (s.raise f word)) (hfault : execFault i (g s) = execFault i s)
    (hresult : Completes i s → execResult i (g s) = g (execResult i s)) : exec i (g s) = .next (g t) := by
  obtain ⟨f, hraised, rfl⟩ | ⟨hcomplete, rfl⟩ := exec_eq_next h
  · rw [exec_of_fault (hfault.trans hraised), hraise]
  · rw [exec_of_completes (execFault_eq_none_iff.1 (hfault.trans (execFault_eq_none_iff.2 hcomplete))),
      hresult hcomplete]

/-- A change of state that keeps HALT and the fetched word, and commutes with fault entry and with the meaning of
the fetched instruction, commutes with the tick. -/
theorem step_commutes {g : State → State} {s t : State} (h : step s = .next t) (hhalt : (g s).halt = s.halt)
    (hfetch : (g s).fetch = s.fetch) (hraise : ∀ f word, (g s).raise f word = g (s.raise f word))
    (hexec : ∀ w i, s.halt = false → s.fetch = some w → decode w = .ok i → exec i s.start = .next t →
      exec i (g s).start = .next (g t)) : step (g s) = .next (g t) := by
  obtain ⟨hs, rfl⟩ | ⟨hs, hnone, rfl⟩ | ⟨w, r, hs, hword, hdecode, rfl⟩ | ⟨w, i, hs, hword, hdecode, hmeaning⟩ :=
    step_cases h
  · exact step_halted (hhalt.trans hs)
  · rw [step_fetch_none (hhalt.trans hs) (hfetch.trans hnone), start_raise, start_raise, hraise]
  · rw [step_unsupported (hhalt.trans hs) (hfetch.trans hword) (by simp [hdecode]), start_raise, hraise]
  · rw [step_decoded (hhalt.trans hs) (hfetch.trans hword) hdecode]
    exact hexec w i hs hword hdecode hmeaning

/-! ### Other memories behind the same bytes -/

/-- The state with other parameters and another memory list. -/
def State.withMemory (s : State) (c : Config) (m : Memory) : State := { s with config := c, mem := m }

section WithMemory

variable {s : State} {c : Config} {m : Memory} (hstrict : c.strictUnwritten = s.config.strictUnwritten)
include hstrict

theorem readableV_withMemory (x : Reg) : (s.withMemory c m).readableV x = s.readableV x := by
  simp only [readableV, withMemory, hstrict]

theorem readableI_withMemory : (s.withMemory c m).readableI = s.readableI := by
  simp only [readableI, withMemory, hstrict]

theorem writeV_withMemory (x : Reg) (b : Byte) : (s.withMemory c m).writeV x b = (s.writeV x b).withMemory c m := by
  simp only [writeV, markV, withMemory, hstrict]

theorem writeI_withMemory (w : Word) : (s.withMemory c m).writeI w = (s.writeI w).withMemory c m := by
  simp only [writeI, markI, withMemory, hstrict]

/-- No check reads memory. -/
theorem execFault_withMemory (i : Instr) : execFault i (s.withMemory c m) = execFault i s := by
  cases i with
  | cls | jp | ldV | ldI => rfl
  | addV x nn => simp only [execFault, readableV_withMemory hstrict]
  | drw x y n =>
    simp only [execFault, readableV_withMemory hstrict, readableI_withMemory hstrict]
    rfl

/-- The result of an instruction depends on memory through the bytes it reads. -/
theorem execResult_withMemory {i : Instr} (hbytes : ∀ a, execReads i s a → Memory.read c m a = s.readMem a) :
    execResult i (s.withMemory c m) = (execResult i s).withMemory c m := by
  cases i with
  | cls | jp => rfl
  | ldV x nn => exact writeV_withMemory (s := s.advance) hstrict x nn
  | addV x nn => exact writeV_withMemory (s := s.advance) hstrict x _
  | ldI nnn => exact writeI_withMemory (s := s.advance) hstrict _
  | drw x y n =>
    have hdraw : drawSprite x y n (s.withMemory c m) = drawSprite x y n s :=
      drawSprite_congr rfl rfl rfl fun row hrow hdrawn => hbytes _ ⟨row, hrow, hdrawn, rfl⟩
    simp only [execResult, hdraw]
    exact writeV_withMemory (s := s.advance.setDisp _) hstrict _ _

theorem exec_withMemory {i : Instr} {t : State}
    (hbytes : Completes i s → ∀ a, execReads i s a → Memory.read c m a = s.readMem a) (h : exec i s = .next t) :
    exec i (s.withMemory c m) = .next (t.withMemory c m) :=
  exec_commutes (g := fun s => s.withMemory c m) h (fun _ _ => rfl) (execFault_withMemory hstrict i) fun hcomplete =>
    execResult_withMemory hstrict (hbytes hcomplete)

end WithMemory

/-- Settles O30: the rows that clipping skips are not among the bytes a draw reads. -/
theorem clippedRowsAreNotRead : Obligations.ClippedRowsAreNotRead := by
  intro x y n s t m hbytes h
  have hconfig : t.config = s.config := (exec_keeps_memory h).2.1
  have hother := exec_withMemory (c := s.config) (m := m) rfl (fun _ a ha => ?reads) h
  case reads =>
    obtain ⟨row, hrow, hdrawn, rfl⟩ := ha
    exact hbytes row hrow hdrawn
  have hframe : t.withMemory s.config m = { t with mem := m } := by rw [← hconfig]; rfl
  rw [hframe] at hother
  exact hother

/-- Settles O35: the fetch reads at PC and PC + 1, a completing instruction inside memory, and nothing else reads.
-/
theorem ticksSeeMemoryOnlyThroughItsBytes : Obligations.TicksSeeMemoryOnlyThroughItsBytes := by
  intro s t c m hstrict hbytes h
  have hfetch : (s.withMemory c m).fetch = s.fetch :=
    fetch_congr rfl fun hpc => ⟨hbytes _ (by omega), hbytes _ (by omega)⟩
  refine ⟨step_commutes (g := fun s => s.withMemory c m) h rfl hfetch (fun _ _ => rfl) fun w i _ _ _ hexec => ?_, rfl⟩
  exact exec_withMemory (s := s.start) hstrict (fun hcomplete a ha => hbytes a (execReads_le hcomplete ha)) hexec

/-! ### The strict model and the default model -/

/-- Of the parameters only the font shows in memory. -/
theorem Memory.read_congr_font {c c' : Config} (h : c'.glyphs1toF = c.glyphs1toF) (m : Memory) (a : Nat) :
    Memory.read c' m a = Memory.read c m a := by
  induction m with
  | nil => simp only [Memory.read, resetByte, fontByte, h]
  | cons p rest ih => simp only [Memory.read, ih]

theorem readMem_asDefaultModel (w : Written) (s : State) (a : Nat) : (asDefaultModel w s).readMem a = s.readMem a :=
  Memory.read_congr_font (c := s.config) (c' := (asDefaultModel w s).config) rfl s.mem a

theorem writeV_asDefaultModel (w : Written) (s : State) (x : Reg) (b : Byte) :
    (asDefaultModel w s).writeV x b = asDefaultModel w (s.writeV x b) := by
  rw [writeV, markV_default _ rfl]; rfl

theorem writeI_asDefaultModel (w : Written) (s : State) (word : Word) :
    (asDefaultModel w s).writeI word = asDefaultModel w (s.writeI word) := by
  rw [writeI, markI_default _ rfl]; rfl

theorem execResult_asDefaultModel (w : Written) (i : Instr) (s : State) :
    execResult i (asDefaultModel w s) = asDefaultModel w (execResult i s) := by
  cases i with
  | cls | jp => rfl
  | ldV x nn => exact writeV_asDefaultModel w s.advance x nn
  | addV x nn => exact writeV_asDefaultModel w s.advance x _
  | ldI nnn => exact writeI_asDefaultModel w s.advance _
  | drw x y n =>
    have hdraw : drawSprite x y n (asDefaultModel w s) = drawSprite x y n s :=
      drawSprite_congr rfl rfl rfl fun _ _ _ => readMem_asDefaultModel w s _
    simp only [execResult, hdraw]
    exact writeV_asDefaultModel w (s.advance.setDisp _) _ _

/-- The default model makes every check of the strict model but the unwritten reads. -/
theorem execFault_asDefaultModel (w : Written) {i : Instr} {s : State} (h : execFault i s ≠ some .unwrittenRead) :
    execFault i (asDefaultModel w s) = execFault i s := by
  have hreadV : ∀ x, (asDefaultModel w s).readableV x = true := readableV_default rfl
  have hreadI : (asDefaultModel w s).readableI = true := readableI_default rfl
  cases i with
  | cls | jp | ldV | ldI => rfl
  | addV x nn =>
    simp only [execFault] at h ⊢
    split at h
    next hread => simp [hreadV, hread]
    next => exact absurd rfl h
  | drw x y n =>
    simp only [execFault] at h ⊢
    split at h
    next hread => simp only [hreadV, hreadI, Bool.and_self, if_true, hread]; rfl
    next => exact absurd rfl h

theorem exec_asDefaultModel (w : Written) {i : Instr} {s t : State} (hread : execFault i s ≠ some .unwrittenRead)
    (h : exec i s = .next t) : exec i (asDefaultModel w s) = .next (asDefaultModel w t) :=
  exec_commutes h (fun _ _ => rfl) (execFault_asDefaultModel w hread) fun _ => execResult_asDefaultModel w i s

/-- Settles O34: an unwritten read of the fetched instruction would be the tick's result. -/
theorem strictModelRefinesDefault : Obligations.StrictModelRefinesDefault := by
  intro s t w _ h hresult
  have hfetch : (asDefaultModel w s).fetch = s.fetch :=
    fetch_congr rfl fun _ => ⟨readMem_asDefaultModel w s _, readMem_asDefaultModel w s _⟩
  refine ⟨step_commutes h rfl hfetch (fun _ _ => rfl) fun word i hhalt hword hdecode hexec => ?_, rfl⟩
  refine exec_asDefaultModel w (s := s.start) (fun hunwritten => ?_) hexec
  rw [execFault_start] at hunwritten
  exact hresult _ (tickResult_of_step_raise hhalt (step_execFault hhalt hword hdecode hunwritten) h) rfl

end Sys2Proof.Machine
end

section
/-! Memory, the ports and runs (20_memory.md, 10_state.md, 60_exceptions.md R157). -/

namespace Sys2Proof.Machine

open State

/-! ### Memory -/

/-- An entry of a canonical memory shows: it differs from what its address reads as without it. -/
theorem Memory.read_head_ne {c : Config} {a : Nat} {x : Byte} {m : Memory} (h : Memory.wf c ((a, x) :: m)) :
    Memory.read c ((a, x) :: m) a ≠ resetByte c a := by
  obtain ⟨-, -, hx, -⟩ := (Memory.wf_cons c a x m).1 h
  simpa [Memory.read] using hx

/-- Below its first entry a canonical memory reads as after reset. -/
theorem Memory.read_below_head {c : Config} {a b : Nat} {x : Byte} {m : Memory} (h : Memory.wf c ((b, x) :: m))
    (hab : a < b) : Memory.read c ((b, x) :: m) a = resetByte c a := by
  obtain ⟨hlow, -, -, -⟩ := (Memory.wf_cons c b x m).1 h
  refine Memory.read_below fun p hp => ?_
  obtain rfl | hp := List.mem_cons.1 hp
  · exact hab
  · exact hab.trans (hlow p hp)

/-- Settles O44: the lower of two different first addresses would read differently, and equal first entries leave
rests that read the same. -/
theorem canonicalMemoryIsDetermined : Obligations.CanonicalMemoryIsDetermined := by
  intro c m
  induction m with
  | nil =>
    rintro (_ | ⟨⟨b, y⟩, rest⟩) - hm' hread
    · rfl
    · obtain ⟨-, hb, -, -⟩ := (Memory.wf_cons c b y rest).1 hm'
      exact absurd (hread b (Nat.le_of_lt_succ hb)).symm (Memory.read_head_ne hm')
  | cons p rest ih =>
    obtain ⟨a, x⟩ := p
    rintro (_ | ⟨⟨b, y⟩, rest'⟩) hm hm' hread
    all_goals obtain ⟨hlow, ha, -, hrest⟩ := (Memory.wf_cons c a x rest).1 hm
    · exact absurd (hread a (Nat.le_of_lt_succ ha)) (Memory.read_head_ne hm)
    · obtain ⟨hlow', hb, -, hrest'⟩ := (Memory.wf_cons c b y rest').1 hm'
      obtain hab | rfl | hba := lt_trichotomy a b
      · exact absurd ((hread a (Nat.le_of_lt_succ ha)).trans (Memory.read_below_head hm' hab)) (Memory.read_head_ne hm)
      · have hxy : x = y := by simpa [Memory.read] using hread a (Nat.le_of_lt_succ ha)
        have hrests : rest = rest' := by
          refine ih rest' hrest hrest' fun d hd => ?_
          by_cases hda : d = a
          · rw [hda, Memory.read_below hlow, Memory.read_below hlow']
          · simpa [Memory.read, hda] using hread d hd
        rw [hxy, hrests]
      · exact absurd ((hread b (Nat.le_of_lt_succ hb)).symm.trans (Memory.read_below_head hm hba))
          (Memory.read_head_ne hm')

/-- Settles O37. -/
theorem loadCopiesItsBytes : Obligations.LoadCopiesItsBytes := by
  intro offset bytes s hstarted hm hlen
  refine ⟨s.writeMem offset bytes, loadPort_eq_next_iff.2 ⟨hstarted, hlen, rfl⟩, s.writeMem_eq offset bytes,
    wf_writeMem hm hlen, fun k hk => readMem_writeMem_inside hm hlen hk,
    fun a ha => readMem_writeMem_outside hm hlen ha, ?_⟩
  rintro rfl
  exact s.writeMem_nil offset

/-! ### Ports -/

/-- Settles O38. -/
theorem portsRefuseWhatTheSpecRefuses : Obligations.PortsRefuseWhatTheSpecRefuses := by
  refine ⟨fun op s => ⟨fun ⟨t, h⟩ => ?answers, ?accepted⟩, fun op s f => ?noFault,
    fun a s => ⟨fun ha => ?peek, fun ha => ?peekPast⟩⟩
  case answers =>
    obtain ⟨rfl, -⟩ | ⟨offset, bytes, rfl, hstarted, hlen, -⟩ | ⟨rfl, -⟩ := HostOp.apply_cases h
    · exact .inl rfl
    · exact .inr (.inr ⟨offset, bytes, rfl, hstarted, hlen⟩)
    · exact .inr (.inl rfl)
  case accepted =>
    rintro (rfl | rfl | ⟨offset, bytes, rfl, hstarted, hlen⟩)
    · exact ⟨_, rfl⟩
    · exact everyTickAnswersNext s
    · exact ⟨_, loadPort_eq_next_iff.2 ⟨hstarted, hlen, rfl⟩⟩
  case noFault =>
    cases op with
    | reset | writeRegister | writeFramebuffer | tickInsideTick => simp [HostOp.apply]
    | load offset bytes =>
      simp only [HostOp.apply, loadPort]
      split
      next => simp
      next => split <;> simp
    | tick =>
      obtain ⟨t, ht⟩ := everyTickAnswersNext s
      simp [HostOp.apply, ht]
  case peek => exact if_pos (Nat.lt_succ_of_le ha)
  case peekPast => exact if_neg (Nat.not_lt.2 ha)

/-- Settles O40. -/
theorem resetPortConstructsTheMachine : Obligations.ResetPortConstructsTheMachine := by
  intro s
  refine ⟨State.resetOf s.config, rfl, rfl, rfl, fun x y => Display.cell_blank x y, readMem_resetOf s.config,
    fun r => ?_, rfl, fun j => ?_, rfl, rfl, rfl, rfl, rfl, fun r => ?_, rfl, rfl⟩
  all_goals exact Vector.getElem_replicate _

/-- Settles O41: a load answers only an unstarted core and stores bytes, and a tick writes the latches only by
setting them. -/
theorem latchesAreClearedOnlyByReset : Obligations.LatchesAreClearedOnlyByReset := by
  intro op s t hop h
  obtain ⟨rfl, -⟩ | ⟨offset, bytes, rfl, hstarted, -, rfl⟩ | ⟨rfl, hstep⟩ := HostOp.apply_cases h
  · exact absurd rfl hop
  · exact ⟨id, fun hhalt => ⟨hhalt, rfl⟩, by simp⟩
  · obtain ⟨hs, rfl⟩ | ⟨hs, f, rfl, -, -⟩ | ⟨hs, w, i, -, -, -, rfl⟩ := step_outcome hstep
    · exact ⟨id, fun hhalt => ⟨hhalt, rfl⟩, by simp [hs]⟩
    · simp [hs]
    · simp [hs]

/-- Settles O42: the loaded bytes are the fetched ones, and they decode to the instruction. -/
theorem firstTickRunsTheLoadedInstruction : Obligations.FirstTickRunsTheLoadedInstruction := by
  intro c i
  have hlen : 0x200 + (encodeBytes i).length ≤ memSize := (by decide : 0x200 + 2 ≤ memSize)
  have hhi : ((State.resetOf c).writeMem 0x200 (encodeBytes i)).readMem 0x200 = highByte (encode i) :=
    readMem_writeMem_inside (s := State.resetOf c) (Memory.wf_nil c) hlen (k := 0) Nat.two_pos
  have hlo : ((State.resetOf c).writeMem 0x200 (encodeBytes i)).readMem 0x201 = lowByte (encode i) :=
    readMem_writeMem_inside (s := State.resetOf c) (Memory.wf_nil c) hlen (k := 1) Nat.one_lt_two
  have hfetch : ((State.resetOf c).writeMem 0x200 (encodeBytes i)).fetch = some (encode i) :=
    fetch_eq_some_iff.2 ⟨(by decide : 0x200 ≤ 0xFFE), (congrArg₂ joinBytes hhi hlo).trans (joinBytes_high_low _)⟩
  exact ⟨_, loadPort_eq_next_iff.2 ⟨rfl, hlen, rfl⟩, rfl, step_decoded rfl hfetch (decode_encode i)⟩

/-- Settles O43. -/
theorem hostDumpsMemoryInOrder : Obligations.HostDumpsMemoryInOrder := by
  intro s t r h
  have hreaction : hostReaction s t = some (if t.config.debugDump then .dump (dumpWords t) else .terminate) := by
    rw [hostReaction, h]
  refine ⟨fun hdump => ⟨dumpWords t, by rw [hreaction, hdump]; rfl, by simp [dumpWords], fun k hk => ?_⟩,
    fun hdump => by rw [hreaction, hdump]; rfl⟩
  simp [dumpWords, joinBytes_toNat]

/-! ### Runs -/

/-- What every step keeps, every run keeps. -/
theorem run_induction {P : State → Prop} (hstep : ∀ s t, P s → step s = .next t → P t) {k : Nat} {s t : State}
    (hs : P s) (h : Sys2Proof.core.run k s = .next t) : P t := by
  induction k generalizing s with
  | zero => exact Host.Outcome.next.inj h ▸ hs
  | succ k ih =>
    simp only [Host.Core.run] at h
    split at h
    next u hu => exact ih (hstep s u hs hu) h
    all_goals cases h

/-- Memory, the parameters, and the registers that no instruction of the subset has are those of `s`. -/
def SameConstants (s t : State) : Prop :=
  t.mem = s.mem ∧ t.sp = s.sp ∧ t.stack = s.stack ∧ t.dt = s.dt ∧ t.st = s.st ∧ t.config = s.config

theorem step_sameConstants {s t : State} (h : step s = .next t) : SameConstants s t := by
  obtain ⟨-, rfl⟩ | ⟨-, f, rfl, -, -⟩ | ⟨-, w, i, -, -, -, rfl⟩ := step_outcome h <;> simp [SameConstants]

theorem SameConstants.trans {s t u : State} (h : SameConstants s t) (h' : SameConstants t u) : SameConstants s u := by
  obtain ⟨hmem, hsp, hstack, hdt, hst, hconfig⟩ := h
  obtain ⟨hmem', hsp', hstack', hdt', hst', hconfig'⟩ := h'
  exact ⟨hmem'.trans hmem, hsp'.trans hsp, hstack'.trans hstack, hdt'.trans hdt, hst'.trans hst, hconfig'.trans hconfig⟩

/-- Settles O36. -/
theorem runsNeverWriteMemoryOrStack : Obligations.RunsNeverWriteMemoryOrStack := by
  intro k s t h
  obtain ⟨hmem, hsp, hstack, hdt, hst, hconfig⟩ : SameConstants s t :=
    run_induction (fun _ _ hsame hstep => hsame.trans (step_sameConstants hstep)) ⟨rfl, rfl, rfl, rfl, rfl, rfl⟩ h
  exact ⟨fun a => by rw [readMem, readMem, hmem, hconfig], hsp, hstack, hdt, hst, hconfig⟩

end Sys2Proof.Machine
end

section
/-! The invariant of reachable states (10_state.md, 60_exceptions.md): reset meets it and every host operation keeps
it. -/

namespace Sys2Proof

open Machine Machine.State

/-- Settles O45. -/
theorem resetSatisfiesStateInv : Obligations.ResetSatisfiesStateInv := fun c =>
  { memCanonical := Memory.wf_nil c
    indexInRange := (by decide : 0 ≤ 0x0FFF)
    pcInRange := (by decide : 0x200 ≤ 0x1000)
    neverWritten := ⟨rfl, rfl, rfl, rfl⟩
    haltIffFault := rfl
    haltedWasStarted := nofun
    recordAtPc := nofun
    freshBeforeStart := fun _ => rfl
    writtenDefault := fun _ => rfl
    unwrittenIsReset := fun _ => ⟨fun x _ => Vector.getElem_replicate x.isLt, fun _ => rfl⟩ }

/-- A fault whose record names the fetched word keeps the invariant. -/
theorem StateInv.raise {s : State} (hs : StateInv s) {f : Fault} (hfetch : f = .fetchOutOfRange ↔ s.fetch = none)
    (hstrict : f = .unwrittenRead → s.config.strictUnwritten = true) : StateInv (s.raise f s.fetch) :=
  { memCanonical := hs.memCanonical
    indexInRange := hs.indexInRange
    pcInRange := hs.pcInRange
    neverWritten := hs.neverWritten
    haltIffFault := rfl
    haltedWasStarted := fun _ => rfl
    recordAtPc := fun r hr => by
      obtain rfl := Option.some.inj hr
      exact ⟨rfl, rfl, hfetch, hstrict⟩
    freshBeforeStart := nofun
    writtenDefault := hs.writtenDefault
    unwrittenIsReset := hs.unwrittenIsReset }

/-- A completed instruction keeps I inside memory: LD I has a 12-bit operand (10_state.md R24). -/
theorem execResult_index_le (i : Instr) {s : State} (h : s.i.toNat ≤ 0xFFF) : (execResult i s).i.toNat ≤ 0xFFF := by
  cases i with
  | ldI nnn =>
    have hindex : (execResult (.ldI nnn) s).i.toNat = nnn.toNat := zext16_toNat nnn
    omega
  | cls | jp | ldV | addV | drw => exact h

/-- A completed instruction leaves PC at most two past the last address it can be fetched from (10_state.md R26). -/
theorem execResult_pc_le (i : Instr) {s : State} (h : s.pc.toNat ≤ 0xFFE) : (execResult i s).pc.toNat ≤ 0x1000 := by
  by_cases hjump : ∃ nnn, i = .jp nnn
  · obtain ⟨nnn, rfl⟩ := hjump
    have hpc : (execResult (.jp nnn) s).pc.toNat = nnn.toNat := zext16_toNat nnn
    omega
  · rw [execResult_pc s fun nnn hi => hjump ⟨nnn, hi⟩]
    bv_omega

/-- In the default model no instruction moves WRITTEN (10_state.md R40). -/
theorem execResult_written_default (i : Instr) {s : State} (h : s.config.strictUnwritten = false) :
    (execResult i s).written = s.written := by
  cases i with
  | cls | jp => rfl
  | ldV | addV | drw => exact markV_default _ h _
  | ldI => exact markI_default _ h

/-- The strict model's registers whose WRITTEN bit is 0 hold their reset value (R39, R40). -/
def UnwrittenAreZero (s : State) : Prop :=
  (∀ x : Reg, s.written.v[x] = false → s.v[x] = 0) ∧ (s.written.i = false → s.i = 0)

/-- A strict write of a register sets its bit, so nothing is asked of its value. -/
theorem UnwrittenAreZero.writeV {s : State} (hs : UnwrittenAreZero s) (hstrict : s.config.strictUnwritten = true)
    (x : Reg) (b : Byte) : UnwrittenAreZero (s.writeV x b) := by
  obtain ⟨hv, hi⟩ := hs
  refine ⟨fun r hr => ?_, fun hbit => hi (by simpa using hbit)⟩
  by_cases hrx : r = x
  · subst r
    simp [markV, hstrict] at hr
  · obtain ⟨hvalue, hbit⟩ := State.writeV_other s hrx b
    exact hvalue.trans (hv r (hbit.symm.trans hr))

theorem UnwrittenAreZero.writeI {s : State} (hs : UnwrittenAreZero s) (hstrict : s.config.strictUnwritten = true)
    (w : Word) : UnwrittenAreZero (s.writeI w) := by
  obtain ⟨hv, -⟩ := hs
  exact ⟨fun r hr => hv r (by simpa using hr), fun hbit => by simp [markI, hstrict] at hbit⟩

theorem UnwrittenAreZero.execResult {s : State} (hs : UnwrittenAreZero s) (hstrict : s.config.strictUnwritten = true)
    (i : Instr) : UnwrittenAreZero (execResult i s) := by
  cases i with
  | cls | jp => exact hs
  | ldV x nn => exact UnwrittenAreZero.writeV (s := s.advance) hs hstrict x nn
  | addV x nn => exact UnwrittenAreZero.writeV (s := s.advance) hs hstrict x _
  | ldI nnn => exact UnwrittenAreZero.writeI (s := s.advance) hs hstrict _
  | drw x y n => exact UnwrittenAreZero.writeV (s := s.advance.setDisp _) hs hstrict _ _

/-- An instruction that completes in a core that is not halted keeps the invariant. -/
theorem StateInv.execResult {s : State} (hs : StateInv s) (hhalt : s.halt = false) (hpc : s.pc.toNat ≤ 0xFFE)
    (i : Instr) : StateInv (execResult i s.start) := by
  have hnoFault : s.fault = none := by simpa [hhalt] using hs.haltIffFault
  exact
    { memCanonical := by simpa using hs.memCanonical
      indexInRange := execResult_index_le i hs.indexInRange
      pcInRange := execResult_pc_le i hpc
      neverWritten := by simpa using hs.neverWritten
      haltIffFault := by simp [hhalt, hnoFault]
      haltedWasStarted := by simp
      recordAtPc := by simp [hnoFault]
      freshBeforeStart := by simp
      writtenDefault := fun hdefault => by
        rw [execResult_config] at hdefault ⊢
        rw [execResult_written_default i hdefault]
        exact hs.writtenDefault hdefault
      unwrittenIsReset := fun hstrict => by
        rw [execResult_config] at hstrict
        exact UnwrittenAreZero.execResult (s := s.start) (hs.unwrittenIsReset hstrict) hstrict i }

/-- Settles O46: a tick of a core that is not halted raises a fault that names the fetched word, or completes an
instruction. -/
theorem stepKeepsStateInv : Obligations.StepKeepsStateInv := by
  intro s t hs h
  obtain ⟨-, rfl⟩ | ⟨-, f, rfl, hfetch, hstrict⟩ | ⟨hhalt, w, i, hfetch, -, -, rfl⟩ := step_outcome h
  · exact hs
  · exact hs.raise hfetch hstrict
  · exact hs.execResult hhalt (pc_le_of_fetch hfetch) i

/-- A load inside memory and before the first tick keeps the invariant: there is no fault record yet that names a
word of memory. -/
theorem StateInv.writeMem {s : State} (hs : StateInv s) (hstarted : s.started = false) {a : Nat} {bytes : List Byte}
    (h : a + bytes.length ≤ memSize) : StateInv (s.writeMem a bytes) := by
  have hfresh := hs.freshBeforeStart hstarted
  have hnoFault : s.fault = none := congrArg State.fault hfresh
  exact
    { memCanonical := wf_writeMem hs.memCanonical h
      indexInRange := hs.indexInRange
      pcInRange := hs.pcInRange
      neverWritten := hs.neverWritten
      haltIffFault := hs.haltIffFault
      haltedWasStarted := hs.haltedWasStarted
      recordAtPc := by simp [hnoFault]
      freshBeforeStart := fun _ => by
        conv_lhs => rw [writeMem_eq, hfresh]
        rfl
      writtenDefault := hs.writtenDefault
      unwrittenIsReset := hs.unwrittenIsReset }

/-- Settles O48: of the host operations only reset, a load before the first tick and the tick answer a state. -/
theorem hostOperationsKeepStateInv : Obligations.HostOperationsKeepStateInv := by
  intro op s t hs h
  obtain ⟨-, rfl⟩ | ⟨offset, bytes, -, hstarted, hlen, rfl⟩ | ⟨-, hstep⟩ := HostOp.apply_cases h
  · exact resetSatisfiesStateInv s.config
  · exact hs.writeMem hstarted hlen
  · exact stepKeepsStateInv s t hs hstep

/-- Settles O47. -/
theorem reachableStatesSatisfyStateInv : Obligations.ReachableStatesSatisfyStateInv := fun _ h =>
  h.induction resetSatisfiesStateInv hostOperationsKeepStateInv

end Sys2Proof
end
